-- ==== Sys2Proof/Word.lean ====
section
/-!
DEFINITION. Word: the words of the machine (spec/00_scope.md R8).
All values are unsigned, bit 0 is the least significant bit.
-/

namespace Sys2Proof

/-- A memory byte or a general register, DT or ST: 8 bits (R5 `XLEN`). -/
abbrev Byte := BitVec 8

/-- An instruction word, I, PC or a stack entry: 16 bits (R5 `ILEN`, `PCLEN`). -/
abbrev Word := BitVec 16

/-- A register number, the value of an `x` or `y` field: 0 to 15, all legal (R71, R83). -/
abbrev Reg := Fin 16

/-- A key index 0x0 to 0xF (R5 `NKEYS`, R29). -/
abbrev Key := Fin 16

/-- `VF`, register 15, the flag register (R21). -/
def Reg.flag : Reg := 15

end Sys2Proof
end

