-- ==== Sys2Proof/Syntax.lean ====
section
/-!
DEFINITION. Syntax: the 34 instructions of spec/30_encoding.md R74 (spec/opcode_table.json), one constructor a row,
in the table's order.
-/

namespace Sys2Proof

/-- One instruction with its operand fields (R71, R72). `x` and `y` are register numbers, `nn` an 8-bit immediate,
`nnn` a 12-bit byte address, `n` the row count of a sprite (a count 0 to 15, checked by `Instr.wellFormed`). -/
inductive Instr where
  /-- `00E0` CLS, R170. -/
  | cls
  /-- `00EE` RET, R100. -/
  | ret
  /-- `1nnn` JP nnn, R101. -/
  | jp (nnn : BitVec 12)
  /-- `2nnn` CALL nnn, R102. -/
  | call (nnn : BitVec 12)
  /-- `3xnn` SE Vx, nn, R110. -/
  | seImm (x : Reg) (nn : Byte)
  /-- `4xnn` SNE Vx, nn, R111. -/
  | sneImm (x : Reg) (nn : Byte)
  /-- `5xy0` SE Vx, Vy, R112. -/
  | seReg (x y : Reg)
  /-- `6xnn` LD Vx, nn, R120. -/
  | ldImm (x : Reg) (nn : Byte)
  /-- `7xnn` ADD Vx, nn, R121. -/
  | addImm (x : Reg) (nn : Byte)
  /-- `8xy0` LD Vx, Vy, R132. -/
  | ldReg (x y : Reg)
  /-- `8xy1` OR Vx, Vy, R133. -/
  | orReg (x y : Reg)
  /-- `8xy2` AND Vx, Vy, R134. -/
  | andReg (x y : Reg)
  /-- `8xy3` XOR Vx, Vy, R135. -/
  | xorReg (x y : Reg)
  /-- `8xy4` ADD Vx, Vy, R136. -/
  | addReg (x y : Reg)
  /-- `8xy5` SUB Vx, Vy, R137. -/
  | subReg (x y : Reg)
  /-- `8xy6` SHR Vx, Vy, R138. -/
  | shr (x y : Reg)
  /-- `8xy7` SUBN Vx, Vy, R139. -/
  | subnReg (x y : Reg)
  /-- `8xyE` SHL Vx, Vy, R140. -/
  | shl (x y : Reg)
  /-- `9xy0` SNE Vx, Vy, R113. -/
  | sneReg (x y : Reg)
  /-- `Annn` LD I, nnn, R150. -/
  | ldI (nnn : BitVec 12)
  /-- `Bnnn` JP V0, nnn, R103. -/
  | jpV0 (nnn : BitVec 12)
  /-- `Cxnn` RND Vx, nn, R160. -/
  | rnd (x : Reg) (nn : Byte)
  /-- `Dxyn` DRW Vx, Vy, n, R171. -/
  | drw (x y : Reg) (n : Nat)
  /-- `Ex9E` SKP Vx, R180. -/
  | skp (x : Reg)
  /-- `ExA1` SKNP Vx, R181. -/
  | sknp (x : Reg)
  /-- `Fx07` LD Vx, DT, R190. -/
  | ldVxDt (x : Reg)
  /-- `Fx0A` LD Vx, K, R182. -/
  | ldVxK (x : Reg)
  /-- `Fx15` LD DT, Vx, R191. -/
  | ldDtVx (x : Reg)
  /-- `Fx18` LD ST, Vx, R192. -/
  | ldStVx (x : Reg)
  /-- `Fx1E` ADD I, Vx, R151. -/
  | addI (x : Reg)
  /-- `Fx29` LD F, Vx, R152. -/
  | ldF (x : Reg)
  /-- `Fx33` LD B, Vx, R153. -/
  | ldB (x : Reg)
  /-- `Fx55` LD [I], Vx, R154. -/
  | dump (x : Reg)
  /-- `Fx65` LD Vx, [I], R155. -/
  | load (x : Reg)
  deriving DecidableEq, Repr

end Sys2Proof
end

