-- ==== Sys2Proof/WellFormed.lean ====
section
/-!
DEFINITION. WellFormed: which terms of `Instr` are instructions (spec/30_encoding.md R71, R73, R83).
Register numbers, `nn` and `nnn` have their range in their type: every value of an `x` or `y` field is legal (R83)
and no field is "reserved, must be zero" (R76). The sprite row count `n` is a count, held as a natural number; it is
the one operand with a check.
-/

namespace Sys2Proof

/-- `n` as a count 0 to 15 (R73). -/
def rowCountFits (n : Nat) : Bool := n ≤ 15

/-- A term that some instruction word encodes (R71 to R73, R83). -/
def Instr.wellFormed : Instr → Bool
  | .drw _ _ n => rowCountFits n
  | .cls | .ret | .jp _ | .call _ | .seImm _ _ | .sneImm _ _ | .seReg _ _ | .ldImm _ _ | .addImm _ _ => true
  | .ldReg _ _ | .orReg _ _ | .andReg _ _ | .xorReg _ _ | .addReg _ _ | .subReg _ _ | .shr _ _ | .subnReg _ _ => true
  | .shl _ _ | .sneReg _ _ | .ldI _ | .jpV0 _ | .rnd _ _ | .skp _ | .sknp _ | .ldVxDt _ | .ldVxK _ => true
  | .ldDtVx _ | .ldStVx _ | .addI _ | .ldF _ | .ldB _ | .dump _ | .load _ => true

end Sys2Proof
end

