-- ==== Sys2Proof/Decode.lean ====
section
/-!
DEFINITION. Decode: from instruction words and bytes to `Instr`, and back (spec/30_encoding.md R70 to R75, R82).
Decoding is total and rejects by name; `decodeWord` selects the family by the top digit, as R74's second table
does, and `encode` writes the patterns of R74's first table.
-/

namespace Sys2Proof

/-- Why bytes are not an instruction. -/
inductive DecodeError where
  /-- Fewer than two bytes: an instruction is exactly 16 bits (R70). -/
  | truncated
  /-- The word matches no row of R74 (R75). -/
  | invalidOpcode
  deriving DecidableEq, Repr

/-! ### The fields of a word (R71) -/

/-- `top`, `op[15:12]`. -/
def opTop (op : Word) : BitVec 4 := op.extractLsb' 12 4

/-- `x`, `op[11:8]`. -/
def opX (op : Word) : Reg := ⟨(op.extractLsb' 8 4).toNat, (op.extractLsb' 8 4).isLt⟩

/-- `y`, `op[7:4]`. -/
def opY (op : Word) : Reg := ⟨(op.extractLsb' 4 4).toNat, (op.extractLsb' 4 4).isLt⟩

/-- `n`, `op[3:0]`. -/
def opN (op : Word) : BitVec 4 := op.extractLsb' 0 4

/-- `nn`, `op[7:0]`. -/
def opNN (op : Word) : Byte := op.extractLsb' 0 8

/-- `nnn`, `op[11:0]`. -/
def opNNN (op : Word) : BitVec 12 := op.extractLsb' 0 12

/-! ### Decoding (R74, R75) -/

/-- Family `8xyN`, "ALU family keyed by low nibble N" (R74). -/
def decodeAlu (op : Word) : Except DecodeError Instr :=
  match opN op with
  | 0x0#4 => .ok (.ldReg (opX op) (opY op))
  | 0x1#4 => .ok (.orReg (opX op) (opY op))
  | 0x2#4 => .ok (.andReg (opX op) (opY op))
  | 0x3#4 => .ok (.xorReg (opX op) (opY op))
  | 0x4#4 => .ok (.addReg (opX op) (opY op))
  | 0x5#4 => .ok (.subReg (opX op) (opY op))
  | 0x6#4 => .ok (.shr (opX op) (opY op))
  | 0x7#4 => .ok (.subnReg (opX op) (opY op))
  | 0xE#4 => .ok (.shl (opX op) (opY op))
  | _ => .error .invalidOpcode

/-- Family `Fxnn` (R74). -/
def decodeF (op : Word) : Except DecodeError Instr :=
  match opNN op with
  | 0x07#8 => .ok (.ldVxDt (opX op))
  | 0x0A#8 => .ok (.ldVxK (opX op))
  | 0x15#8 => .ok (.ldDtVx (opX op))
  | 0x18#8 => .ok (.ldStVx (opX op))
  | 0x1E#8 => .ok (.addI (opX op))
  | 0x29#8 => .ok (.ldF (opX op))
  | 0x33#8 => .ok (.ldB (opX op))
  | 0x55#8 => .ok (.dump (opX op))
  | 0x65#8 => .ok (.load (opX op))
  | _ => .error .invalidOpcode

/-- The instruction of a 16-bit word, or `invalidOpcode` (R74, R75, R82). -/
def decodeWord (op : Word) : Except DecodeError Instr :=
  match opTop op with
  | 0x0#4 =>
    if op = 0x00E0#16 then .ok .cls
    else if op = 0x00EE#16 then .ok .ret
    else .error .invalidOpcode
  | 0x1#4 => .ok (.jp (opNNN op))
  | 0x2#4 => .ok (.call (opNNN op))
  | 0x3#4 => .ok (.seImm (opX op) (opNN op))
  | 0x4#4 => .ok (.sneImm (opX op) (opNN op))
  | 0x5#4 => if opN op = 0x0#4 then .ok (.seReg (opX op) (opY op)) else .error .invalidOpcode
  | 0x6#4 => .ok (.ldImm (opX op) (opNN op))
  | 0x7#4 => .ok (.addImm (opX op) (opNN op))
  | 0x8#4 => decodeAlu op
  | 0x9#4 => if opN op = 0x0#4 then .ok (.sneReg (opX op) (opY op)) else .error .invalidOpcode
  | 0xA#4 => .ok (.ldI (opNNN op))
  | 0xB#4 => .ok (.jpV0 (opNNN op))
  | 0xC#4 => .ok (.rnd (opX op) (opNN op))
  | 0xD#4 => .ok (.drw (opX op) (opY op) (opN op).toNat)
  | 0xE#4 =>
    if opNN op = 0x9E#8 then .ok (.skp (opX op))
    else if opNN op = 0xA1#8 then .ok (.sknp (opX op))
    else .error .invalidOpcode
  | _ => decodeF op

/-- The instruction word that two bytes hold, the first byte (the one at the lower address) high (R53, R70). -/
def wordOfBytes (hi lo : Byte) : Word := hi ++ lo

/-- The high byte of a word, `op[15:8]`, stored at the lower address (R53). -/
def highByte (op : Word) : Byte := op.extractLsb' 8 8

/-- The low byte of a word, `op[7:0]` (R53). -/
def lowByte (op : Word) : Byte := op.extractLsb' 0 8

/-- Decode the instruction at the front of a byte stream and give the rest of the stream (R70, R84). -/
def decode : List Byte → Except DecodeError (Instr × List Byte)
  | hi :: lo :: rest => (decodeWord (wordOfBytes hi lo)).map fun i => (i, rest)
  | _ => .error .truncated

/-! ### Encoding (R72, R74) -/

/-- A register number as a field of four bits. -/
def regBits (r : Reg) : BitVec 4 := BitVec.ofNat 4 r.val

/-- Format A, `tnnn`. -/
def formatA (t : BitVec 4) (nnn : BitVec 12) : Word := t ++ nnn

/-- Format XI, `txnn`. -/
def formatXI (t : BitVec 4) (x : Reg) (nn : Byte) : Word := t ++ regBits x ++ nn

/-- Formats XY (`txyk`, `k` fixed) and XYN (`txyn`, `n` an operand). -/
def formatXY (t : BitVec 4) (x y : Reg) (k : BitVec 4) : Word := t ++ regBits x ++ regBits y ++ k

/-- Format X, `txkk`. -/
def formatX (t : BitVec 4) (x : Reg) (kk : Byte) : Word := t ++ regBits x ++ kk

/-- The word of an instruction, from the patterns of R74. A sprite row count above 15 (not well formed) keeps its
low four bits. -/
def encode : Instr → Word
  | .cls => 0x00E0#16
  | .ret => 0x00EE#16
  | .jp nnn => formatA 0x1#4 nnn
  | .call nnn => formatA 0x2#4 nnn
  | .seImm x nn => formatXI 0x3#4 x nn
  | .sneImm x nn => formatXI 0x4#4 x nn
  | .seReg x y => formatXY 0x5#4 x y 0x0#4
  | .ldImm x nn => formatXI 0x6#4 x nn
  | .addImm x nn => formatXI 0x7#4 x nn
  | .ldReg x y => formatXY 0x8#4 x y 0x0#4
  | .orReg x y => formatXY 0x8#4 x y 0x1#4
  | .andReg x y => formatXY 0x8#4 x y 0x2#4
  | .xorReg x y => formatXY 0x8#4 x y 0x3#4
  | .addReg x y => formatXY 0x8#4 x y 0x4#4
  | .subReg x y => formatXY 0x8#4 x y 0x5#4
  | .shr x y => formatXY 0x8#4 x y 0x6#4
  | .subnReg x y => formatXY 0x8#4 x y 0x7#4
  | .shl x y => formatXY 0x8#4 x y 0xE#4
  | .sneReg x y => formatXY 0x9#4 x y 0x0#4
  | .ldI nnn => formatA 0xA#4 nnn
  | .jpV0 nnn => formatA 0xB#4 nnn
  | .rnd x nn => formatXI 0xC#4 x nn
  | .drw x y n => formatXY 0xD#4 x y (BitVec.ofNat 4 n)
  | .skp x => formatX 0xE#4 x 0x9E#8
  | .sknp x => formatX 0xE#4 x 0xA1#8
  | .ldVxDt x => formatX 0xF#4 x 0x07#8
  | .ldVxK x => formatX 0xF#4 x 0x0A#8
  | .ldDtVx x => formatX 0xF#4 x 0x15#8
  | .ldStVx x => formatX 0xF#4 x 0x18#8
  | .addI x => formatX 0xF#4 x 0x1E#8
  | .ldF x => formatX 0xF#4 x 0x29#8
  | .ldB x => formatX 0xF#4 x 0x33#8
  | .dump x => formatX 0xF#4 x 0x55#8
  | .load x => formatX 0xF#4 x 0x65#8

/-- The two bytes of an instruction as memory holds them, high byte first (R70). -/
def encodeBytes (i : Instr) : List Byte := [highByte (encode i), lowByte (encode i)]

/-! ### The table's own numbering -/

/-- The first word of an instruction whose bits, numbered as spec/opcode_table.json numbers them, are `w`; the bits
from `nbits` on are 0. One word is the longest instruction (R70). -/
def tableWord (nbits w : Nat) : Word := BitVec.ofNat 16 (w % 2 ^ nbits)

/-- The instruction the decoder reads from the bytes of a table word, laid out as the hardware stores them. -/
def decodeTableWord (nbits w : Nat) : Option Instr :=
  if nbits ≤ 16 then
    match decode [highByte (tableWord nbits w), lowByte (tableWord nbits w)] with
    | .ok (i, _) => some i
    | .error _ => none
  else none

/-! ### The opcode table of R74, as masks and matches -/

/-- The `(mask, match)` pair of an instruction's row in R74's table. -/
def opcodeRow : Instr → Word × Word
  | .cls => (0xFFFF#16, 0x00E0#16)
  | .ret => (0xFFFF#16, 0x00EE#16)
  | .jp _ => (0xF000#16, 0x1000#16)
  | .call _ => (0xF000#16, 0x2000#16)
  | .seImm _ _ => (0xF000#16, 0x3000#16)
  | .sneImm _ _ => (0xF000#16, 0x4000#16)
  | .seReg _ _ => (0xF00F#16, 0x5000#16)
  | .ldImm _ _ => (0xF000#16, 0x6000#16)
  | .addImm _ _ => (0xF000#16, 0x7000#16)
  | .ldReg _ _ => (0xF00F#16, 0x8000#16)
  | .orReg _ _ => (0xF00F#16, 0x8001#16)
  | .andReg _ _ => (0xF00F#16, 0x8002#16)
  | .xorReg _ _ => (0xF00F#16, 0x8003#16)
  | .addReg _ _ => (0xF00F#16, 0x8004#16)
  | .subReg _ _ => (0xF00F#16, 0x8005#16)
  | .shr _ _ => (0xF00F#16, 0x8006#16)
  | .subnReg _ _ => (0xF00F#16, 0x8007#16)
  | .shl _ _ => (0xF00F#16, 0x800E#16)
  | .sneReg _ _ => (0xF00F#16, 0x9000#16)
  | .ldI _ => (0xF000#16, 0xA000#16)
  | .jpV0 _ => (0xF000#16, 0xB000#16)
  | .rnd _ _ => (0xF000#16, 0xC000#16)
  | .drw _ _ _ => (0xF000#16, 0xD000#16)
  | .skp _ => (0xF0FF#16, 0xE09E#16)
  | .sknp _ => (0xF0FF#16, 0xE0A1#16)
  | .ldVxDt _ => (0xF0FF#16, 0xF007#16)
  | .ldVxK _ => (0xF0FF#16, 0xF00A#16)
  | .ldDtVx _ => (0xF0FF#16, 0xF015#16)
  | .ldStVx _ => (0xF0FF#16, 0xF018#16)
  | .addI _ => (0xF0FF#16, 0xF01E#16)
  | .ldF _ => (0xF0FF#16, 0xF029#16)
  | .ldB _ => (0xF0FF#16, 0xF033#16)
  | .dump _ => (0xF0FF#16, 0xF055#16)
  | .load _ => (0xF0FF#16, 0xF065#16)

/-- One instruction of each row of R74, in the table's order; `opcodeRow` of these is the table's mask and match
columns. -/
def rowSamples : List Instr :=
  [.cls, .ret, .jp 0, .call 0, .seImm 0 0, .sneImm 0 0, .seReg 0 0, .ldImm 0 0, .addImm 0 0, .ldReg 0 0,
   .orReg 0 0, .andReg 0 0, .xorReg 0 0, .addReg 0 0, .subReg 0 0, .shr 0 0, .subnReg 0 0, .shl 0 0] ++
  [.sneReg 0 0, .ldI 0, .jpV0 0, .rnd 0 0, .drw 0 0 0, .skp 0, .sknp 0, .ldVxDt 0, .ldVxK 0, .ldDtVx 0,
   .ldStVx 0, .addI 0, .ldF 0, .ldB 0, .dump 0, .load 0]

/-- The 34 `(mask, match)` pairs of R74. -/
def opcodeTable : List (Word × Word) := rowSamples.map opcodeRow

end Sys2Proof
end

