-- ==== Sys2Proof/Config.lean ====
section
/-!
DEFINITION. Config: what is fixed for a machine before it runs, and the free value (spec/00_scope.md R5, R6,
spec/92_eei_decisions.md P1 to P5).
-/

namespace Sys2Proof

/-- The four open parameters of R5: the three quirk toggles (`quirk_config`, R6, R213) and the font table (R64).
They are configuration, not state: fixed before the first step and constant afterwards (R6).
DESIGN CHOICE, safe (log 5): State carries a value of this type, so that a statement about every state is a
statement about every configuration. -/
structure Config where
  /-- P1: the shifts read `V[y]` (true) or `V[x]` (false), R141. -/
  shiftSourceVy : Bool
  /-- P2: `Fx1E` writes the overflow flag, R151. -/
  iOverflowSetsVf : Bool
  /-- P3: `Fx55` and `Fx65` move `I` past the transferred bytes, R154, R155. -/
  iIncrement : Bool
  /-- P4: the 80 glyph bytes placed at 0x050 by reset, R64. -/
  fontTable : Vector Byte 80
  deriving DecidableEq, Repr

/-- The free value of `Cxnn` (R161): the k-th byte that `draw_byte()` supplies, under no law.
DESIGN CHOICE (log 1): an opaque constant applied to the counter `State.draws`, so nothing proved depends on
which byte arrives. -/
opaque Config.drawByte : Nat → Byte

end Sys2Proof
end

