-- ==== Sys2Proof/Machine/Defaults.lean ====
section
/-!
DEFINITION. Defaults: the values of the open parameters where the host does not set them (spec/00_scope.md R5).
-/

namespace Sys2Proof

/-- The conventional font, digits 0 to 7 (R64). PRESUMED: from general knowledge, as R64 says (D25, log 6). -/
def fontLow : Vector Byte 40 :=
  #v[0xF0, 0x90, 0x90, 0x90, 0xF0,
     0x20, 0x60, 0x20, 0x20, 0x70,
     0xF0, 0x10, 0xF0, 0x80, 0xF0,
     0xF0, 0x10, 0xF0, 0x10, 0xF0,
     0x90, 0x90, 0xF0, 0x10, 0x10,
     0xF0, 0x80, 0xF0, 0x10, 0xF0,
     0xF0, 0x80, 0xF0, 0x90, 0xF0,
     0xF0, 0x10, 0x20, 0x40, 0x40]

/-- The conventional font, digits 8 to F (R64). PRESUMED (log 6). -/
def fontHigh : Vector Byte 40 :=
  #v[0xF0, 0x90, 0xF0, 0x90, 0xF0,
     0xF0, 0x90, 0xF0, 0x10, 0xF0,
     0xF0, 0x90, 0xF0, 0x90, 0x90,
     0xE0, 0x90, 0xE0, 0x90, 0xE0,
     0xF0, 0x80, 0x80, 0x80, 0xF0,
     0xE0, 0x90, 0x90, 0x90, 0xE0,
     0xF0, 0x80, 0xF0, 0x80, 0xF0,
     0xF0, 0x80, 0xF0, 0x80, 0x80]

/-- The default `FONT_TABLE`, 80 bytes in digit order (R64). -/
def standardFont : Vector Byte 80 := fontLow ++ fontHigh

/-- The default configuration (R5): `shift_source_vy` true (D8), `i_overflow_sets_vf` false, `i_increment` true. -/
def Config.standard : Config where
  shiftSourceVy := true
  iOverflowSetsVf := false
  iIncrement := true
  fontTable := standardFont

end Sys2Proof
end

