-- ==== Sys2Proof/Machine/State.lean ====
section
/-!
DEFINITION. State: everything the spec gives the machine (spec/10_state.md R20 to R34), as plain data; the faults and
refusals a run can end in; and the state after reset.
-/

namespace Sys2Proof.Machine

/-- The error kinds of spec/00_scope.md R11. A step (or a `load_rom`) that raises one ends there and changes nothing
(R221). All are safe: the machine stops where the spec says it stops. -/
inductive Fault where
  /-- R200: the fetched word matches no row of the opcode table. Raised by `step` at decode. Safe. -/
  | invalidOpcode
  /-- R201: CALL with 16 entries in use. Raised by `execCall`. Safe. -/
  | stackOverflow
  /-- R202: RET with no entry in use. Raised by `execRet`. Safe. -/
  | stackUnderflow
  /-- R203: a fetch or an indexed access beyond 0xFFF (raised by `State.fetch`, `execDrw`, `execLdB`, `execDump`,
  `execLoad`), or an image that does not fit (raised by `State.loadRom`). Safe. -/
  | memoryOutOfBounds
  /-- R204: a fetch at an odd address within bounds. Raised by `State.fetch`. Safe: the kind is the spec's own
  (D2, log 8). -/
  | misalignedPC
  deriving DecidableEq, Repr

/-- Why an action has no meaning in the model. No instruction that has its meaning is ever refused; the last three
are moves the spec gives the host no meaning for. -/
inductive Refusal where
  /-- An instruction without a meaning yet. Raised by no arm of `exec`: all 34 have their meaning. Safe. -/
  | notModelled (mnemonic : String)
  /-- `set_key` with an index above 15, which names no key (R210, D23). Raised by `transact`. Safe. -/
  | keyIndex
  /-- `load_rom` on a machine that is not freshly reset, which R243 does not specify (D24, log 35). Raised by `transact`.
  Safe. -/
  | loadAfterBoot
  /-- A change of the configuration on a machine that is not freshly reset (R6, D9, U16, log 35). Raised by `transact`.
  Safe. -/
  | configureAfterBoot
  deriving DecidableEq, Repr

/-- MODE, the execution mode (R30). -/
inductive Mode where
  /-- A step fetches and executes an instruction. -/
  | running
  /-- A step fetches nothing and polls the keys (R183). -/
  | awaitingKey
  deriving DecidableEq, Repr

/-- FB: 32 rows of 64 pixels, row 0 and column 0 first; a pixel is true when set (R28). -/
abbrev Framebuffer := Vector (Vector Bool 64) 32

/-- The listed bytes of MEM (R31): (address, byte) pairs in the canonical form of `Memory.wf`. -/
abbrev Memory := List Host.Cell

/-- The complete state: the tuple of R33, then the two fields that are the model's own. -/
structure State where
  /-- `V[0..15]`, R20; `V[15]` is VF, R21. -/
  v : Vector Byte 16
  /-- `I`, R22. -/
  i : Word
  /-- `PC`, R23. -/
  pc : Word
  /-- `SP`, the number of stack entries in use, 0 to 16, R25. -/
  sp : Fin 17
  /-- `STACK[0..15]`, R25. -/
  stack : Vector Word 16
  /-- `DT`, R26. -/
  dt : Byte
  /-- `ST`, R27. -/
  st : Byte
  /-- `FB`, R28. -/
  fb : Framebuffer
  /-- `KEYS`, key k at bit k, R29. -/
  keys : BitVec 16
  /-- `MODE`, R30. -/
  mode : Mode
  /-- `WAIT_X`, R30. -/
  waitX : Reg
  /-- `KPREV`, R30. -/
  kprev : BitVec 16
  /-- `MEM`, R31. -/
  mem : Memory
  /-- MODEL: the configuration (R5, R6), which no step writes (log 5). -/
  cfg : Config
  /-- MODEL: how many bytes have been drawn (R161, log 1). -/
  draws : Nat
  deriving DecidableEq, Repr

/-- The reset values of R241, for a configuration and a draw counter, which reset does not touch (R161 "`reset` does
not reseed anything", R6). Values the source does not give are the spec's decisions D22 and D23 (logs 2 and 3). -/
def State.resetWith (cfg : Config) (draws : Nat) : State where
  v := Vector.replicate 16 0x00#8
  i := 0x0000#16
  pc := 0x0200#16
  sp := 0
  stack := Vector.replicate 16 0x0000#16
  dt := 0x00#8
  st := 0x00#8
  fb := Vector.replicate 32 (Vector.replicate 64 false)
  keys := 0x0000#16
  mode := .running
  waitX := 0
  kprev := 0x0000#16
  mem := []
  cfg := cfg
  draws := draws

/-- The machine right after reset (R240, R241), with the default configuration of R5 and no byte drawn
(DESIGN CHOICE, log 4). -/
def State.reset : State := State.resetWith Config.standard 0

end Sys2Proof.Machine
end

