-- ==== Sys2Proof/Machine/Ops.lean ====
section
/-!
DEFINITION. Ops: the named operations over registers, memory, the call stack and the framebuffer, taking an error,
and the fetch (spec/10_state.md, spec/20_memory.md, spec/60_exceptions.md R221, spec/30_encoding.md R80, R81).
-/

namespace Sys2Proof

/-- Where the font stands, `FONT_BASE` (R5, R64). -/
def fontBase : Nat := 0x050

/-- The reset content of an address, which is what an address that memory does not list reads as: the font at 0x050 to
0x09F, zero elsewhere (R31, R51, R64). -/
def Config.resetByte (c : Config) (a : Nat) : Byte :=
  if h : 0x050 ≤ a ∧ a < 0x0A0 then c.fontTable[a - 0x050] else 0x00#8

namespace Machine

/-- What an instruction or a step answers. -/
abbrev Result := Host.Outcome State Fault Refusal

/-! ### Taking an error -/

/-- Trap entry (R221): the transaction ends with the error kind. Nothing is saved, no mode changes, no vector is read
and the raising transaction changes no state, so the outcome holds the kind alone (D3, D5, log 9). There is no
return from it (R223). -/
def raise (k : Fault) : Result := .fault k

/-! ### General registers (R20) -/

/-- `V[r]`. -/
def State.reg (s : State) (r : Reg) : Byte := s.v[r.val]

/-- `V[r] <- b`. -/
def State.setReg (s : State) (r : Reg) (b : Byte) : State := { s with v := s.v.set r.val b }

/-! ### The program counter (R23, R81) -/

/-- `PC <- target`, unchecked: the next fetch checks it (R24, R104). -/
def State.jump (s : State) (target : Word) : State := { s with pc := target }

/-- `next`: `PC <- PC + 2` (R81). From a PC that passed the fetch tests the sum is at most 0x1000; the sixteen-bit
wrap of other values is in no run (log 29). -/
def State.advance (s : State) : State := s.jump (s.pc + 2#16)

/-- The skip decision: `PC <- PC + 4` when the condition holds, else `PC <- PC + 2` (R81, R114). -/
def State.skipIf (s : State) (c : Bool) : State := s.jump (if c then s.pc + 4#16 else s.pc + 2#16)

/-! ### The index register and the timers (R22, R26, R27) -/

/-- `I <- w`. -/
def State.setIndex (s : State) (w : Word) : State := { s with i := w }

/-- `DT <- b`. -/
def State.setDelay (s : State) (b : Byte) : State := { s with dt := b }

/-- `ST <- b`. -/
def State.setSound (s : State) (b : Byte) : State := { s with st := b }

/-! ### The call stack (R25) -/

/-- `STACK[SP] <- w; SP <- SP + 1`, or none when all 16 entries are in use (R25, R102). -/
def State.push (s : State) (w : Word) : Option State :=
  if h : s.sp.val < 16 then
    some { s with stack := s.stack.set s.sp.val w, sp := ⟨s.sp.val + 1, by omega⟩ }
  else none

/-- `SP <- SP - 1`, and the entry at the new SP, or none when no entry is in use (R25, R100). The entry is not
erased. -/
def State.pop (s : State) : Option (Word × State) :=
  if h : 0 < s.sp.val then
    some (s.stack[s.sp.val - 1], { s with sp := ⟨s.sp.val - 1, by omega⟩ })
  else none

/-! ### Memory (R31, R50 to R60) -/

/-- The byte listed at an address, or what an unlisted address reads as. -/
def Memory.read (bg : Nat → Byte) : Memory → Nat → Byte
  | [], a => bg a
  | (k, b) :: m, a => if a = k then b else Memory.read bg m a

/-- The pair to list for a byte at an address: none when the address reads so unlisted. -/
def Memory.entry (bg : Nat → Byte) (a : Nat) (b : Byte) : Memory := if b = bg a then [] else [(a, b)]

/-- `MEM[a] <- b`, keeping the canonical form. -/
def Memory.write (bg : Nat → Byte) : Memory → Nat → Byte → Memory
  | [], a, b => Memory.entry bg a b
  | (k, c) :: m, a, b =>
    if a < k then Memory.entry bg a b ++ (k, c) :: m
    else if a = k then Memory.entry bg a b ++ m
    else (k, c) :: Memory.write bg m a b

/-- Bytes stored at ascending addresses (R54). -/
def Memory.writeBytes (bg : Nat → Byte) (m : Memory) (a : Nat) : List Byte → Memory
  | [] => m
  | b :: bs => Memory.writeBytes bg (Memory.write bg m a b) (a + 1) bs

/-- Canonical from a lowest address on: addresses strictly rising and inside the address space, no entry equal to what
an unlisted address reads as. -/
def Memory.wfFrom (bg : Nat → Byte) (lo : Nat) : Memory → Bool
  | [] => true
  | (k, b) :: m => decide (lo ≤ k) && decide (k < 0x1000) && b != bg k && Memory.wfFrom bg (k + 1) m

/-- The canonical form of memory: equal memories are equal lists. -/
def Memory.wf (bg : Nat → Byte) (m : Memory) : Bool := Memory.wfFrom bg 0 m

/-- `MEM[a]` (R52), for an address within bounds. -/
def State.peek (s : State) (a : Nat) : Byte := s.mem.read s.cfg.resetByte a

/-- The bytes at `a`, `a + 1`, ..., `a + n - 1`, in that order (R54). -/
def State.peekBytes (s : State) (a : Nat) : Nat → List Byte
  | 0 => []
  | n + 1 => s.peek a :: s.peekBytes (a + 1) n

/-- The big-endian word at `a`, `a + 1` (R53). -/
def State.peekWord (s : State) (a : Nat) : Word := wordOfBytes (s.peek a) (s.peek (a + 1))

/-- Store bytes at ascending addresses from `a` (R54). -/
def State.pokeBytes (s : State) (a : Nat) (bs : List Byte) : State :=
  { s with mem := s.mem.writeBytes s.cfg.resetByte a bs }

/-- The one bounds test of an access to `a` to `a + last`, in unbounded arithmetic (R60, R156). -/
def rangeFits (a last : Nat) : Bool := decide (a + last ≤ 0xFFF)

/-! ### The fetch (R80) -/

/-- The word at PC, after the two tests of R80 in the order of R208: bounds (R53), then parity (R55, R204). -/
def State.fetch (s : State) : Except Fault Word :=
  if s.pc.toNat + 1 > 0xFFF then .error .memoryOutOfBounds
  else if s.pc.getLsbD 0 then .error .misalignedPC
  else .ok (s.peekWord s.pc.toNat)

/-! ### The framebuffer (R28) -/

/-- `FB[row][col]`. -/
def Framebuffer.pixel (fb : Framebuffer) (row : Fin 32) (col : Fin 64) : Bool := fb[row.val][col.val]

/-- `FB[row][col] <- b`. -/
def Framebuffer.setPixel (fb : Framebuffer) (row : Fin 32) (col : Fin 64) (b : Bool) : Framebuffer :=
  fb.set row.val (fb[row.val].set col.val b)

/-- Every pixel 0 (R170). -/
def Framebuffer.blank : Framebuffer := Vector.replicate 32 (Vector.replicate 64 false)

/-- A row number reduced to the screen (R172). -/
def wrapRow (n : Nat) : Fin 32 := ⟨n % 32, by omega⟩

/-- A column number reduced to the screen (R172). -/
def wrapCol (n : Nat) : Fin 64 := ⟨n % 64, by omega⟩

/-- Replace the framebuffer. -/
def State.setScreen (s : State) (fb : Framebuffer) : State := { s with fb := fb }

/-! ### The random byte (R161) -/

/-- `draw_byte()`: a fresh free byte, and the state that has drawn it (log 1). -/
def State.drawByte (s : State) : Byte × State := (Config.drawByte s.draws, { s with draws := s.draws + 1 })

end Machine

end Sys2Proof
end

