-- ==== Sys2Proof/Machine/Operands.lean ====
section
/-!
DEFINITION. Operands: the operand forms that are more than a register or an immediate. The address in `I` is the
unbounded integer `s.i.toNat` (R60).
-/

namespace Sys2Proof.Machine

/-- The low nibble of a register value, `v[3:0]` (R152, R184). -/
def lowNibble (b : Byte) : Fin 16 := ⟨b.toNat % 16, by omega⟩

/-- The key a register selects: its low nibble (R184, D11, log 13). -/
def State.keyOf (s : State) (x : Reg) : Key := lowNibble (s.reg x)

/-- Whether a key is down: `KEYS[k] = 1` (R29). -/
def State.keyDown (s : State) (k : Key) : Bool := s.keys.getLsbD k.val

/-- The source of a shift: `V[y]` when `shift_source_vy` is set, else `V[x]` (R138, R141). -/
def State.shiftSource (s : State) (x y : Reg) : Byte := if s.cfg.shiftSourceVy then s.reg y else s.reg x

/-- The address of the glyph of a register's digit: `0x050 + 5 * d`, `d` the low nibble (R152, D12, log 14). -/
def State.glyphAddress (s : State) (x : Reg) : Word :=
  BitVec.ofNat 16 (fontBase + 5 * (lowNibble (s.reg x)).val)

/-- The three decimal digits of a byte: hundreds, tens, ones (R153). -/
def decimalDigits (b : Byte) : List Byte :=
  [BitVec.ofNat 8 (b.toNat / 100), BitVec.ofNat 8 (b.toNat / 10 % 10), BitVec.ofNat 8 (b.toNat % 10)]

/-- `V[0]` to `V[x]`, in that order (R154). -/
def State.regsTo (s : State) (x : Reg) : List Byte := s.v.toList.take (x.val + 1)

/-- The register file after `V[k] <- MemRead(I + k, 1)` for k from 0 to x (R155). -/
def State.regsLoaded (s : State) (x : Reg) : Vector Byte 16 :=
  Vector.ofFn fun k : Fin 16 => if k ≤ x then s.peek (s.i.toNat + k.val) else s.v[k.val]

/-- `I` after a dump or a load of `V[0]` to `V[x]`: past the last byte when `i_increment` is set, else unchanged
(R154, R155, D33, log 32). -/
def State.indexAfter (s : State) (x : Reg) : Word :=
  if s.cfg.iIncrement then s.i + BitVec.ofNat 16 (x.val + 1) else s.i

end Sys2Proof.Machine
end

