-- ==== Sys2Proof/Machine/Flags.lean ====
section
/-!
DEFINITION. Flags: what the flag-writing instructions put in VF, and the order of the write (spec/43_alu.md R130,
R131). Flags are computed on the unreduced integers.
-/

namespace Sys2Proof.Machine

/-- The carry out of bit 7 (R131, R136). -/
def carryOut (a b : Byte) : Bool := decide (a.toNat + b.toNat > 255)

/-- NOT borrow of `a - b`: 1 exactly when `a >= b` (R131, R137, R139, D35, log 22). -/
def notBorrow (a b : Byte) : Bool := decide (a.toNat ≥ b.toNat)

/-- The bit a right shift drops, `s[0]` (R138). -/
def bitOutRight (b : Byte) : Bool := b.getLsbD 0

/-- The bit a left shift drops, `s[7]` (R140). -/
def bitOutLeft (b : Byte) : Bool := b.getLsbD 7

/-- Whether the unreduced sum of `I` and a register passes 0xFFF (R151, D10, log 12). -/
def indexOverflow (i : Word) (b : Byte) : Bool := decide (i.toNat + b.toNat > 0xFFF)

/-- A flag as the byte 0x00 or 0x01 (R130). -/
def flagByte (f : Bool) : Byte := if f then 0x01#8 else 0x00#8

/-- `VF <- f`. -/
def State.setFlag (s : State) (f : Bool) : State := s.setReg Reg.flag (flagByte f)

/-- `V[x] <- r`, then `VF <- f`: the flag is what VF holds when `x = F` (R130, D6, log 11). -/
def State.setResult (s : State) (x : Reg) (r : Byte) (f : Bool) : State := (s.setReg x r).setFlag f

end Sys2Proof.Machine
end

