-- ==== Sys2Proof/Machine/Alu.lean ====
section
/-!
DEFINITION. Alu: the register-register family 8xyN (spec/43_alu.md). Sources are read first, then V[x], then VF (R130).
-/

namespace Sys2Proof.Machine

/-- `8xy0` LD Vx, Vy (R132). -/
def execLdReg (x y : Reg) (s : State) : Result := .next (s.setReg x (s.reg y)).advance

/-- `8xy1` OR Vx, Vy (R133): VF unchanged. -/
def execOrReg (x y : Reg) (s : State) : Result := .next (s.setReg x (s.reg x ||| s.reg y)).advance

/-- `8xy2` AND Vx, Vy (R134): VF unchanged. -/
def execAndReg (x y : Reg) (s : State) : Result := .next (s.setReg x (s.reg x &&& s.reg y)).advance

/-- `8xy3` XOR Vx, Vy (R135): VF unchanged. -/
def execXorReg (x y : Reg) (s : State) : Result := .next (s.setReg x (s.reg x ^^^ s.reg y)).advance

/-- `8xy4` ADD Vx, Vy (R136): VF = carry. -/
def execAddReg (x y : Reg) (s : State) : Result :=
  .next (s.setResult x (s.reg x + s.reg y) (carryOut (s.reg x) (s.reg y))).advance

/-- `8xy5` SUB Vx, Vy (R137): VF = NOT borrow of `V[x] - V[y]`. -/
def execSubReg (x y : Reg) (s : State) : Result :=
  .next (s.setResult x (s.reg x - s.reg y) (notBorrow (s.reg x) (s.reg y))).advance

/-- `8xy6` SHR Vx, Vy (R138): VF = the bit shifted out of the source. -/
def execShr (x y : Reg) (s : State) : Result :=
  .next (s.setResult x (s.shiftSource x y >>> 1) (bitOutRight (s.shiftSource x y))).advance

/-- `8xy7` SUBN Vx, Vy (R139): VF = NOT borrow of `V[y] - V[x]`. -/
def execSubnReg (x y : Reg) (s : State) : Result :=
  .next (s.setResult x (s.reg y - s.reg x) (notBorrow (s.reg y) (s.reg x))).advance

/-- `8xyE` SHL Vx, Vy (R140): VF = the bit shifted out of the source. -/
def execShl (x y : Reg) (s : State) : Result :=
  .next (s.setResult x (s.shiftSource x y <<< 1) (bitOutLeft (s.shiftSource x y))).advance

end Sys2Proof.Machine
end

