-- ==== Sys2Proof/Machine/Control.lean ====
section
/-!
DEFINITION. Control: RET, JP, CALL, JP V0 (spec/40_control_transfer.md). Targets are checked at the next fetch (R104, log 7).
-/

namespace Sys2Proof.Machine

/-- `00EE` RET (R100). -/
def execRet (s : State) : Result :=
  match s.pop with
  | none => raise .stackUnderflow
  | some (w, t) => .next (t.jump w)

/-- `1nnn` JP nnn (R101). -/
def execJp (nnn : BitVec 12) (s : State) : Result := .next (s.jump (nnn.zeroExtend 16))

/-- `2nnn` CALL nnn (R102): the pushed word is the address of the instruction after the CALL. -/
def execCall (nnn : BitVec 12) (s : State) : Result :=
  match s.push (s.pc + 2#16) with
  | none => raise .stackOverflow
  | some t => .next (t.jump (nnn.zeroExtend 16))

/-- `Bnnn` JP V0, nnn (R103): the offset register is always V0. -/
def execJpV0 (nnn : BitVec 12) (s : State) : Result :=
  .next (s.jump (nnn.zeroExtend 16 + (s.reg 0).zeroExtend 16))

end Sys2Proof.Machine
end

