-- ==== Sys2Proof/Machine/Display.lean ====
section
/-!
DEFINITION. Display: CLS and DRW, the only writers of the framebuffer, and the snapshot the host reads
(spec/46_display.md, spec/60_exceptions.md R211).
-/

namespace Sys2Proof.Machine

/-- A framebuffer under a draw, and whether a pixel of it has gone from set to unset so far (R171 `hit`). -/
structure Canvas where
  fb : Framebuffer
  hit : Bool
  deriving DecidableEq, Repr

/-- One sprite bit at an unreduced row and column: a 1 bit flips the wrapped pixel and records a collision when it
was set; a 0 bit does nothing (R171, R172). -/
def Canvas.plot (c : Canvas) (bit : Bool) (row col : Nat) : Canvas :=
  if bit then
    { fb := c.fb.setPixel (wrapRow row) (wrapCol col) (!c.fb.pixel (wrapRow row) (wrapCol col))
      hit := c.hit || c.fb.pixel (wrapRow row) (wrapCol col) }
  else c

/-- The columns `k`, `k + 1`, ..., 7 of one sprite row, from the left; sprite column `k` is bit `7 - k` (R172). -/
def Canvas.plotCols (b : Byte) (row x0 : Nat) : List Nat → Canvas → Canvas
  | [], c => c
  | k :: ks, c => Canvas.plotCols b row x0 ks (c.plot (b.getLsbD (7 - k)) row (x0 + k))

/-- The rows of a sprite, downwards from row `row` (R171, R172). -/
def Canvas.plotRows (x0 : Nat) : List Byte → Nat → Canvas → Canvas
  | [], _, c => c
  | b :: bs, row, c => Canvas.plotRows x0 bs (row + 1) (Canvas.plotCols b row x0 [0, 1, 2, 3, 4, 5, 6, 7] c)

/-- The canvas after the sprite of `n` bytes at `I` is drawn at column `V[x]`, row `V[y]` (R171). -/
def State.drawSprite (s : State) (x y : Reg) (n : Nat) : Canvas :=
  Canvas.plotRows (s.reg x).toNat (s.peekBytes s.i.toNat n) (s.reg y).toNat { fb := s.fb, hit := false }

/-- The bounds test of a draw: a sprite of no rows touches no memory (R171, D15, log 17). -/
def spriteFits (a n : Nat) : Bool := n == 0 || rangeFits a (n - 1)

/-- `00E0` CLS (R170): VF unchanged. -/
def execCls (s : State) : Result := .next (s.setScreen Framebuffer.blank).advance

/-- `Dxyn` DRW Vx, Vy, n (R171): VF = collision, written last. -/
def execDrw (x y : Reg) (n : Nat) (s : State) : Result :=
  if spriteFits s.i.toNat n then
    .next ((s.setScreen (s.drawSprite x y n).fb).setFlag (s.drawSprite x y n).hit).advance
  else raise .memoryOutOfBounds

/-- `framebuffer_snapshot()`: the rows of the grid, top row first (R211, D32, log 30). -/
def State.framebufferSnapshot (s : State) : List (List Bool) := s.fb.toList.map Vector.toList

end Sys2Proof.Machine
end

