-- ==== Sys2Proof/Machine/Immediate.lean ====
section
/-!
DEFINITION. Immediate: LD Vx, nn and ADD Vx, nn (spec/42_immediate.md).
-/

namespace Sys2Proof.Machine

/-- `6xnn` LD Vx, nn (R120). -/
def execLdImm (x : Reg) (nn : Byte) (s : State) : Result := .next (s.setReg x nn).advance

/-- `7xnn` ADD Vx, nn (R121): modulo 256, VF not written. -/
def execAddImm (x : Reg) (nn : Byte) (s : State) : Result := .next (s.setReg x (s.reg x + nn)).advance

end Sys2Proof.Machine
end

