-- ==== Sys2Proof/Machine/IndexMemory.lean ====
section
/-!
DEFINITION. IndexMemory: LD I, ADD I, LD F, LD B, LD [I], LD Vx,[I] (spec/44_index_memory.md). A multi-byte access tests its
whole range before anything is read or written (R156, log 18).
-/

namespace Sys2Proof.Machine

/-- `Annn` LD I, nnn (R150). -/
def execLdI (nnn : BitVec 12) (s : State) : Result := .next (s.setIndex (nnn.zeroExtend 16)).advance

/-- `Fx1E` ADD I, Vx (R151): modulo 65536; VF is written, last, only when `i_overflow_sets_vf` is set. -/
def execAddI (x : Reg) (s : State) : Result :=
  let t := s.setIndex (s.i + (s.reg x).zeroExtend 16)
  .next (if s.cfg.iOverflowSetsVf then t.setFlag (indexOverflow s.i (s.reg x)) else t).advance

/-- `Fx29` LD F, Vx (R152). -/
def execLdF (x : Reg) (s : State) : Result := .next (s.setIndex (s.glyphAddress x)).advance

/-- `Fx33` LD B, Vx (R153). -/
def execLdB (x : Reg) (s : State) : Result :=
  if rangeFits s.i.toNat 2 then .next (s.pokeBytes s.i.toNat (decimalDigits (s.reg x))).advance
  else raise .memoryOutOfBounds

/-- `Fx55` LD [I], Vx (R154). -/
def execDump (x : Reg) (s : State) : Result :=
  if rangeFits s.i.toNat x.val then
    .next ((s.pokeBytes s.i.toNat (s.regsTo x)).setIndex (s.indexAfter x)).advance
  else raise .memoryOutOfBounds

/-- `Fx65` LD Vx, [I] (R155). -/
def execLoad (x : Reg) (s : State) : Result :=
  if rangeFits s.i.toNat x.val then
    .next (State.setIndex { s with v := s.regsLoaded x } (s.indexAfter x)).advance
  else raise .memoryOutOfBounds

end Sys2Proof.Machine
end

