-- ==== Sys2Proof/Machine/Keypad.lean ====
section
/-!
DEFINITION. Keypad: SKP, SKNP, the key wait and its poll, and the host transaction set_key (spec/47_keypad.md,
spec/60_exceptions.md R210).
-/

namespace Sys2Proof.Machine

/-- `Ex9E` SKP Vx (R180). -/
def execSkp (x : Reg) (s : State) : Result := .next (s.skipIf (s.keyDown (s.keyOf x)))

/-- `ExA1` SKNP Vx (R181). -/
def execSknp (x : Reg) (s : State) : Result := .next (s.skipIf (!s.keyDown (s.keyOf x)))

/-- `Fx0A` LD Vx, K, the step that starts the wait (R182): PC and `V[x]` are not written. -/
def execLdVxK (x : Reg) (s : State) : Result :=
  .next { s with waitX := x, kprev := s.keys, mode := .awaitingKey }

/-- The least key of a set of keys, where there is one (R183). -/
def leastKey (keys : BitVec 16) : Option Key := (List.finRange 16).find? fun k => keys.getLsbD k.val

/-- The keys down now that were up at the last look: `KEYS AND NOT KPREV` (R183). -/
def State.newKeys (s : State) : BitVec 16 := s.keys &&& ~~~s.kprev

/-- A key ends the wait: `V[WAIT_X] <- k`, `PC <- PC + 2`, `MODE <- Running` (R183). -/
def State.endWait (s : State) (k : Key) : State :=
  { (s.setReg s.waitX (BitVec.ofNat 8 k.val)).advance with mode := .running }

/-- The poll of a pending key wait (R183): the least new key ends it; with no new key only KPREV follows KEYS
(D13, log 15). -/
def State.pollKey (s : State) : State :=
  match leastKey s.newKeys with
  | none => { s with kprev := s.keys }
  | some k => s.endWait k

/-- `set_key(index, pressed)`: `KEYS[k] <- pressed` (R210). -/
def State.setKey (s : State) (k : Key) (pressed : Bool) : State :=
  { s with keys := if pressed then s.keys ||| (1#16 <<< k.val) else s.keys &&& ~~~(1#16 <<< k.val) }

end Sys2Proof.Machine
end

