-- ==== Sys2Proof/Machine/Random.lean ====
section
/-!
DEFINITION. Random: RND (spec/45_random.md).
-/

namespace Sys2Proof.Machine

/-- `Cxnn` RND Vx, nn (R160): a fresh free byte AND `nn`. -/
def execRnd (x : Reg) (nn : Byte) (s : State) : Result :=
  .next (s.drawByte.2.setReg x (s.drawByte.1 &&& nn)).advance

end Sys2Proof.Machine
end

