-- ==== Sys2Proof/Machine/Skips.lean ====
section
/-!
DEFINITION. Skips: SE and SNE on registers (spec/41_skips.md R110 to R114).
-/

namespace Sys2Proof.Machine

/-- `3xnn` SE Vx, nn (R110). -/
def execSeImm (x : Reg) (nn : Byte) (s : State) : Result := .next (s.skipIf (s.reg x == nn))

/-- `4xnn` SNE Vx, nn (R111). -/
def execSneImm (x : Reg) (nn : Byte) (s : State) : Result := .next (s.skipIf (s.reg x != nn))

/-- `5xy0` SE Vx, Vy (R112). -/
def execSeReg (x y : Reg) (s : State) : Result := .next (s.skipIf (s.reg x == s.reg y))

/-- `9xy0` SNE Vx, Vy (R113). -/
def execSneReg (x y : Reg) (s : State) : Result := .next (s.skipIf (s.reg x != s.reg y))

end Sys2Proof.Machine
end

