-- ==== Sys2Proof/Machine/Timers.lean ====
section
/-!
DEFINITION. Timers: the three timer instructions, the timer engine and the sound signal (spec/48_timers.md,
spec/60_exceptions.md R205, R212).
-/

namespace Sys2Proof.Machine

/-- `Fx07` LD Vx, DT (R190). -/
def execLdVxDt (x : Reg) (s : State) : Result := .next (s.setReg x s.dt).advance

/-- `Fx15` LD DT, Vx (R191). -/
def execLdDtVx (x : Reg) (s : State) : Result := .next (s.setDelay (s.reg x)).advance

/-- `Fx18` LD ST, Vx (R192). -/
def execLdStVx (x : Reg) (s : State) : Result := .next (s.setSound (s.reg x)).advance

/-- One tick of one counter: minus 1, floored at 0 (R205). -/
def tickDown (b : Byte) : Byte := if b.toNat > 0 then b - 1#8 else b

/-- `tick_timers()` (R205): the two counters, each by its own value, and nothing else. -/
def State.tickTimers (s : State) : State := (s.setDelay (tickDown s.dt)).setSound (tickDown s.st)

/-- `sound_active()`: true iff `ST > 0` (R212). -/
def State.soundActive (s : State) : Bool := decide (s.st.toNat > 0)

end Sys2Proof.Machine
end

