-- ==== Sys2Proof/Machine/Step.lean ====
section
/-!
DEFINITION. Step: `step()`, the fetch-decode-execute transaction (spec/30_encoding.md R80), and where the next
instruction is fetched from.
-/

namespace Sys2Proof.Machine

/-- `step()` (R80): in AwaitingKey one poll of the keys and no fetch; in Running the fetch, the decode and the
instruction's own meaning, each of which may raise, in the order of R208 (D4, log 10). -/
def step (s : State) : Host.Outcome State Fault Refusal :=
  match s.mode with
  | .awaitingKey => .next s.pollKey
  | .running =>
    match s.fetch with
    | .error k => raise k
    | .ok op =>
      match decodeWord op with
      | .error _ => raise .invalidOpcode
      | .ok i => exec i s

/-- `s` with a table word stored where `step` fetches its next instruction: the two bytes at PC, high byte first
(R53), in Running mode, since no word is fetched in AwaitingKey (R77). Where PC is beyond 0xFFE nothing can be
stored, and the step raises (log 28). -/
def State.withFetchWord (s : State) (nbits w : Nat) : State :=
  let t := { s with mode := .running }
  if rangeFits s.pc.toNat 1 then
    t.pokeBytes s.pc.toNat [highByte (tableWord nbits w), lowByte (tableWord nbits w)]
  else t

end Sys2Proof.Machine
end

