-- ==== Sys2Proof/Machine/Transactions.lean ====
section
/-!
DEFINITION. Transactions: the actions of the host and the timer engine beside `step()`, their responses, boot, and
interleavings (spec/60_exceptions.md R205 to R217, spec/70_reset_and_hazards.md R240 to R244).
-/

namespace Sys2Proof.Machine

/-! ### reset, load_rom, boot -/

/-- Whether the machine is as reset leaves it, for its own configuration and draw counter.
DESIGN CHOICE, unsafe (log 35): "before the first step" (R6, R213) and "the reset state" (R243) are judged by the
value of the state and not by what was done before, so a machine whose only step raised, or that has come back to its
reset state, is fresh. -/
def State.isFresh (s : State) : Bool := decide (s = State.resetWith s.cfg s.draws)

/-- The `reset` transaction (R240), which is also what power-on does: every piece of state at its reset value. The
configuration is not state (R6), and reset does not reseed the random byte (R161, log 4). -/
def State.resetTransaction (s : State) : State := State.resetWith s.cfg s.draws

/-- `load_rom(bytes, at)` (R243): the two tests, the image, `PC <- at`; an error changes nothing (D24, log 24). -/
def State.loadRom (s : State) (bytes : List Byte) (addr : Nat) : Except Fault State :=
  if addr < 0x200 ∨ addr > 0xFFF then .error .memoryOutOfBounds
  else if bytes.length > 0x1000 - addr then .error .memoryOutOfBounds
  else .ok ((s.pokeBytes addr bytes).jump (BitVec.ofNat 16 addr))

/-- The boot sequence (R244): fix the configuration, reset, load the image. -/
def boot (cfg : Config) (bytes : List Byte) (addr : Nat) : Except Fault State :=
  (State.resetWith cfg 0).loadRom bytes addr

/-! ### The transactions -/

/-- The actions of the three agents (R7). -/
inductive Transaction where
  /-- Fix the configuration: the three toggles (`quirk_config`, R213) and the font table (R5). -/
  | configure (cfg : Config)
  /-- R240. -/
  | reset
  /-- R243. -/
  | loadRom (bytes : List Byte) (addr : Nat)
  /-- R80. -/
  | step
  /-- R205. -/
  | tickTimers
  /-- R210; an index above 15 names no key. -/
  | setKey (index : Nat) (pressed : Bool)
  /-- R211. -/
  | framebufferSnapshot
  /-- R212. -/
  | soundActive
  deriving DecidableEq, Repr

/-- What a transaction returns to its caller. -/
inductive Response where
  /-- Success, nothing to report. -/
  | ok
  /-- The error kind of a `step` or a `load_rom` that raised (R221). -/
  | error (k : Fault)
  /-- The grid of `framebuffer_snapshot` (R211). -/
  | snapshot (rows : List (List Bool))
  /-- The answer of `sound_active` (R212). -/
  | sound (active : Bool)
  deriving DecidableEq, Repr

/-- The state and response of a `step` transaction, from what `step` answers: an error leaves the state as it was
(R221, D3). -/
def stepResponse (s : State) : Result → Except Refusal (State × Response)
  | .next t => .ok (t, .ok)
  | .fault k => .ok (s, .error k)
  | .refused r => .error r

/-- One transaction (R7): the state after it and its response, or the refusal of a move the spec does not give the
host (logs 24, 25, 26; `isFresh` is log 35). -/
def transact (s : State) : Transaction → Except Refusal (State × Response)
  | .configure cfg =>
    if s.isFresh then .ok (State.resetWith cfg s.draws, .ok) else .error .configureAfterBoot
  | .reset => .ok (s.resetTransaction, .ok)
  | .loadRom bytes addr =>
    if s.isFresh then
      match s.loadRom bytes addr with
      | .ok t => .ok (t, .ok)
      | .error k => .ok (s, .error k)
    else .error .loadAfterBoot
  | .step => stepResponse s (Sys2Proof.Machine.step s)
  | .tickTimers => .ok (s.tickTimers, .ok)
  | .setKey index pressed =>
    if h : index < 16 then .ok (s.setKey ⟨index, h⟩ pressed, .ok) else .error .keyIndex
  | .framebufferSnapshot => .ok (s, .snapshot s.framebufferSnapshot)
  | .soundActive => .ok (s, .sound s.soundActive)

/-- An interleaving of transactions, in order (R217), with the responses. -/
def transactAll : State → List Transaction → Except Refusal (State × List Response)
  | s, [] => .ok (s, [])
  | s, t :: ts =>
    match transact s t with
    | .error r => .error r
    | .ok (s', r) =>
      match transactAll s' ts with
      | .error e => .error e
      | .ok (s'', rs) => .ok (s'', r :: rs)

end Sys2Proof.Machine
end

