-- ==== Sys2Proof/Safety.lean ====
section
/-!
DEFINITION. Safety: the terms in which claims speak of runs: what a state must satisfy in every run, when a program
has ended, when a state is dead, and what it means that an action leaves a part of the state as it was.
-/

namespace Sys2Proof.Machine

/-! ### The invariant of every run -/

/-- What holds of the machine in every run from boot (`State.resetWith`, then transactions).
- Memory is in canonical form.
- The stack entries in use are return addresses: even and at most 0x1000 (R100).
- PC is at most 0x10FE, the largest value a step can write (R24).
- In AwaitingKey, PC is still the address of the `Fx0A` that started the wait (R182), with `WAIT_X` its `x` (R30). -/
structure State.Inv (s : State) : Prop where
  memory : s.mem.wf s.cfg.resetByte = true
  returns : ∀ k : Fin 16, k.val < s.sp.val → s.stack[k.val].toNat % 2 = 0 ∧ s.stack[k.val].toNat ≤ 0x1000
  target : s.pc.toNat ≤ 0x10FE
  waiting : s.mode = .awaitingKey →
    s.pc.toNat ≤ 0xFFE ∧ s.pc.toNat % 2 = 0 ∧ s.peekWord s.pc.toNat = encode (.ldVxK s.waitX)

/-! ### Dead states and the end of a run -/

/-- A state whose next step raises (R223): it is never final, and every later step raises the same error. -/
def State.DeadWith (s : State) (k : Fault) : Prop := step s = .fault k

/-- The end of a run by the convention of R246 (D27, log 34): Running, PC even and at most 0xFFE, and the word at PC a
jump to itself, `0x1000 + PC`. The hardware does not detect it. -/
def State.ended (s : State) : Bool :=
  decide (s.mode = .running) && decide (s.pc.toNat ≤ 0xFFE) && decide (s.pc.toNat % 2 = 0) &&
    decide (s.peekWord s.pc.toNat = 0x1000#16 + s.pc)

/-- The transactions the host and the timer engine may issue between steps, and the step itself (R217): everything
but `configure`, `reset` and `load_rom`. -/
def Transaction.isRunning : Transaction → Bool
  | .step | .tickTimers | .setKey _ _ | .framebufferSnapshot | .soundActive => true
  | .configure _ | .reset | .loadRom _ _ => false

/-! ### Frames: an action leaves a part of the state as it was -/

/-- Every byte of memory reads as before. -/
def SameMemory (s t : State) : Prop := ∀ a : Nat, t.peek a = s.peek a

/-- Every byte of memory outside the `len` addresses from `a` on reads as before. -/
def SameMemoryOutside (a len : Nat) (s t : State) : Prop :=
  ∀ b : Nat, b < a ∨ a + len ≤ b → t.peek b = s.peek b

/-- Every general register but those of `written` is as before. -/
def SameRegsBut (written : Reg → Prop) (s t : State) : Prop := ∀ r : Reg, ¬ written r → t.reg r = s.reg r

/-- Every general register is as before. -/
def SameRegs (s t : State) : Prop := ∀ r : Reg, t.reg r = s.reg r

/-- Every pixel is as before. -/
def SameScreen (s t : State) : Prop := ∀ (row : Fin 32) (col : Fin 64), t.fb.pixel row col = s.fb.pixel row col

/-- The stack pointer and all 16 entries are as before. -/
def SameStack (s t : State) : Prop := t.sp = s.sp ∧ ∀ k : Fin 16, t.stack[k.val] = s.stack[k.val]

/-- DT and ST are as before. -/
def SameTimers (s t : State) : Prop := t.dt = s.dt ∧ t.st = s.st

/-- MODE, WAIT_X and KPREV are as before. -/
def SameWait (s t : State) : Prop := t.mode = s.mode ∧ t.waitX = s.waitX ∧ t.kprev = s.kprev

/-- What no instruction writes: the keys and the configuration. -/
def SameInputs (s t : State) : Prop := t.keys = s.keys ∧ t.cfg = s.cfg

/-- Everything but the general registers, I, PC, memory and the screen is as before: the stack, the timers, the
wait, the keys, the configuration and the draw counter. -/
def SameRest (s t : State) : Prop :=
  SameStack s t ∧ SameTimers s t ∧ SameWait s t ∧ SameInputs s t ∧ t.draws = s.draws

/-! ### Shapes of an instruction's effect -/

/-- `i` completes, advances PC by 2 and writes general registers only: afterwards register `r` holds `new r`. -/
def SetsRegs (i : Instr) (s : State) (new : Reg → Byte) : Prop :=
  ∃ t, exec i s = .next t ∧ (∀ r, t.reg r = new r) ∧ t.pc = s.pc + 2#16 ∧ t.i = s.i ∧
    SameMemory s t ∧ SameScreen s t ∧ SameRest s t

/-- `i` completes and writes PC only: `PC + 4` when `p` holds, `PC + 2` when it does not. -/
def SkipsWhen (i : Instr) (s : State) (p : Prop) : Prop :=
  ∃ t, exec i s = .next t ∧ (p → t.pc = s.pc + 4#16) ∧ (¬ p → t.pc = s.pc + 2#16) ∧ SameRegs s t ∧ t.i = s.i ∧
    SameMemory s t ∧ SameScreen s t ∧ SameRest s t

/-- `i` completes, advances PC by 2 and writes I only, to `w`. -/
def SetsIndex (i : Instr) (s : State) (w : Word) : Prop :=
  ∃ t, exec i s = .next t ∧ t.i = w ∧ SameRegs s t ∧ t.pc = s.pc + 2#16 ∧
    SameMemory s t ∧ SameScreen s t ∧ SameRest s t

/-- The pixel at (`row`, `col`) lies under a 1 bit of the sprite of `n` bytes at `I` drawn at column `V[x]`, row
`V[y]`: some sprite row `r` and column `c` go there, and bit `7 - c` of byte `r` is 1 (R172). -/
def SpriteCovers (s : State) (x y : Reg) (n : Nat) (row : Fin 32) (col : Fin 64) : Prop :=
  ∃ r c : Nat, r < n ∧ c < 8 ∧ (s.peek (s.i.toNat + r)).getLsbD (7 - c) = true ∧
    ((s.reg y).toNat + r) % 32 = row.val ∧ ((s.reg x).toNat + c) % 64 = col.val

/-- Key `k` is down now and was up at the last look (R183). -/
def NewlyDown (s : State) (k : Key) : Prop := s.keys.getLsbD k.val = true ∧ s.kprev.getLsbD k.val = false

/-! ### Sequences of instructions -/

/-- Instructions executed one after another, stopping at the first that does not complete. -/
def execAll : List Instr → State → Result
  | [], s => .next s
  | i :: is, s =>
    match exec i s with
    | .next t => execAll is t
    | .fault k => .fault k
    | .refused r => .refused r

/-- A sequence in which every CALL has its RET, with any other instructions between. -/
inductive Balanced : List Instr → Prop where
  | nil : Balanced []
  | plain {i : Instr} {is : List Instr} (notCall : ∀ nnn, i ≠ .call nnn) (notRet : i ≠ .ret) (rest : Balanced is) :
      Balanced (i :: is)
  | nest {nnn : BitVec 12} {body is : List Instr} (inner : Balanced body) (rest : Balanced is) :
      Balanced (.call nnn :: body ++ .ret :: is)

/-! ### What cannot be observed -/

/-- The states differ at most in what is never read: the stack entries at SP and above (R25), and WAIT_X and KPREV in
Running mode (R30). -/
structure SameObservable (s t : State) : Prop where
  visible : t = { s with stack := t.stack, waitX := t.waitX, kprev := t.kprev }
  entries : ∀ k : Fin 16, k.val < s.sp.val → t.stack[k.val] = s.stack[k.val]
  waiting : s.mode = .awaitingKey → t.waitX = s.waitX ∧ t.kprev = s.kprev

/-- The three timer instructions (R190 to R192). -/
def usesTimers (i : Instr) : Prop := ∃ x, i = .ldVxDt x ∨ i = .ldDtVx x ∨ i = .ldStVx x

/-- The three key instructions (R180 to R182). -/
def readsKeys (i : Instr) : Prop := ∃ x, i = .skp x ∨ i = .sknp x ∨ i = .ldVxK x

/-- In Running mode, the instruction that the bytes at PC decode to. -/
def AboutToRun (s : State) (i : Instr) : Prop :=
  s.mode = .running ∧ decodeWord (s.peekWord s.pc.toNat) = .ok i

end Sys2Proof.Machine
end

