-- ==== Sys2Proof/Certificates/Slice0/Obligations.lean ====
section
/-!
DEFINITION. Obligations: the statements for the provers, from the numbered rules of spec/. Each docstring names the
rules it formalises; where a clause rests on a decision the spec marks as its own, the docstring names the decision
and its log entry.
-/

open Sys2Proof Sys2Proof.Machine

/-- The word of an instruction as a number, read off the pattern column of R74 digit by digit: a second writing of
the encoding, independent of `encode`. -/
def Sys2Proof.patternValue : Instr → Nat
  | .cls => 0x00E0
  | .ret => 0x00EE
  | .jp nnn => 0x1000 + nnn.toNat
  | .call nnn => 0x2000 + nnn.toNat
  | .seImm x nn => 0x3000 + 0x100 * x.val + nn.toNat
  | .sneImm x nn => 0x4000 + 0x100 * x.val + nn.toNat
  | .seReg x y => 0x5000 + 0x100 * x.val + 0x10 * y.val
  | .ldImm x nn => 0x6000 + 0x100 * x.val + nn.toNat
  | .addImm x nn => 0x7000 + 0x100 * x.val + nn.toNat
  | .ldReg x y => 0x8000 + 0x100 * x.val + 0x10 * y.val
  | .orReg x y => 0x8001 + 0x100 * x.val + 0x10 * y.val
  | .andReg x y => 0x8002 + 0x100 * x.val + 0x10 * y.val
  | .xorReg x y => 0x8003 + 0x100 * x.val + 0x10 * y.val
  | .addReg x y => 0x8004 + 0x100 * x.val + 0x10 * y.val
  | .subReg x y => 0x8005 + 0x100 * x.val + 0x10 * y.val
  | .shr x y => 0x8006 + 0x100 * x.val + 0x10 * y.val
  | .subnReg x y => 0x8007 + 0x100 * x.val + 0x10 * y.val
  | .shl x y => 0x800E + 0x100 * x.val + 0x10 * y.val
  | .sneReg x y => 0x9000 + 0x100 * x.val + 0x10 * y.val
  | .ldI nnn => 0xA000 + nnn.toNat
  | .jpV0 nnn => 0xB000 + nnn.toNat
  | .rnd x nn => 0xC000 + 0x100 * x.val + nn.toNat
  | .drw x y n => 0xD000 + 0x100 * x.val + 0x10 * y.val + n
  | .skp x => 0xE09E + 0x100 * x.val
  | .sknp x => 0xE0A1 + 0x100 * x.val
  | .ldVxDt x => 0xF007 + 0x100 * x.val
  | .ldVxK x => 0xF00A + 0x100 * x.val
  | .ldDtVx x => 0xF015 + 0x100 * x.val
  | .ldStVx x => 0xF018 + 0x100 * x.val
  | .addI x => 0xF01E + 0x100 * x.val
  | .ldF x => 0xF029 + 0x100 * x.val
  | .ldB x => 0xF033 + 0x100 * x.val
  | .dump x => 0xF055 + 0x100 * x.val
  | .load x => 0xF065 + 0x100 * x.val

/-- The general registers an instruction may write, from R20's table of writers and R21. -/
def Sys2Proof.writtenRegs (cfg : Config) : Instr → Reg → Prop
  | .ldImm x _, r | .addImm x _, r | .rnd x _, r | .ldVxDt x, r => r = x
  | .ldReg x _, r | .orReg x _, r | .andReg x _, r | .xorReg x _, r => r = x
  | .addReg x _, r | .subReg x _, r | .shr x _, r | .subnReg x _, r | .shl x _, r => r = x ∨ r = 15
  | .drw _ _ _, r => r = 15
  | .addI _, r => cfg.iOverflowSetsVf = true ∧ r = 15
  | .load x, r => r ≤ x
  | .cls, _ | .ret, _ | .jp _, _ | .call _, _ | .seImm _ _, _ | .sneImm _ _, _ | .seReg _ _, _ => False
  | .sneReg _ _, _ | .ldI _, _ | .jpV0 _, _ | .skp _, _ | .sknp _, _ | .ldVxK _, _ => False
  | .ldDtVx _, _ | .ldStVx _, _ | .ldF _, _ | .ldB _, _ | .dump _, _ => False

/-- O1. Decoding the bytes of a well-formed instruction gives it back.
R70, R72, R83: no bit of an encoding is dropped, at every value of every operand. -/
def Obligations.DecodeInvertsEncode : Prop :=
  ∀ (i : Instr) (rest : List Byte), i.wellFormed = true → decode (encodeBytes i ++ rest) = .ok (i, rest)

/-- O2. Encoding a decoded instruction gives its two bytes back.
R71, R76 (every bit of every legal word is fixed by the pattern or part of an operand), R82. -/
def Obligations.EncodeInvertsDecode : Prop :=
  ∀ (hi lo : Byte) (rest rest' : List Byte) (i : Instr), decode (hi :: lo :: rest) = .ok (i, rest') →
    i.wellFormed = true ∧ encodeBytes i = [hi, lo] ∧ rest' = rest

/-- O3. The word of every instruction is its pattern of hexadecimal digits.
R71 (the digits of each field), R72, R74 (the patterns). -/
def Obligations.EncodingsAreThePatterns : Prop :=
  ∀ i : Instr, i.wellFormed = true → (encode i).toNat = patternValue i

/-- O4. A word decodes to the row whose mask and match it satisfies.
R74: an instruction word selects the row whose mask and match satisfy `op AND mask = match`. -/
def Obligations.DecodingFollowsTheOpcodeTable : Prop :=
  (∀ (op : Word) (i : Instr), decodeWord op = .ok i →
    opcodeRow i ∈ opcodeTable ∧ op &&& (opcodeRow i).1 = (opcodeRow i).2) ∧
  (∀ (op : Word) (row : Word × Word), row ∈ opcodeTable → op &&& row.1 = row.2 →
    ∃ i, decodeWord op = .ok i ∧ opcodeRow i = row)

/-- O5. No word satisfies two rows of the opcode table.
R82: the 34 (mask, match) pairs are pairwise disjoint. -/
def Obligations.OpcodeRowsAreDisjoint : Prop :=
  opcodeTable.length = 34 ∧ opcodeTable.Nodup ∧
  ∀ (op : Word) (a b : Word × Word), a ∈ opcodeTable → b ∈ opcodeTable →
    op &&& a.1 = a.2 → op &&& b.1 = b.2 → a = b

/-- O6. The illegal words are exactly those of the illegal-encodings table.
R75's table. The exact set is the spec's own reading of the patterns (D29, log 23). -/
def Obligations.IllegalWordsByFamily : Prop :=
  ∀ op : Word, decodeWord op = .error .invalidOpcode ↔
    (opTop op = 0x0#4 ∧ op ≠ 0x00E0#16 ∧ op ≠ 0x00EE#16) ∨
    ((opTop op = 0x5#4 ∨ opTop op = 0x9#4) ∧ opN op ≠ 0x0#4) ∨
    (opTop op = 0x8#4 ∧ opN op ∈ [0x8#4, 0x9#4, 0xA#4, 0xB#4, 0xC#4, 0xD#4, 0xF#4]) ∨
    (opTop op = 0xE#4 ∧ opNN op ∉ [0x9E#8, 0xA1#8]) ∨
    (opTop op = 0xF#4 ∧ opNN op ∉ [0x07#8, 0x0A#8, 0x15#8, 0x18#8, 0x1E#8, 0x29#8, 0x33#8, 0x55#8, 0x65#8])

/-- O7. A few instruction words, written out bit by bit, decode as they stand for.
R74, sanity: words of spec/95_test_vectors.md. -/
def Obligations.WrittenOutWordsDecode : Prop :=
  decodeWord 0b0000000011101110#16 = .ok .ret ∧
  decodeWord 0b0001001000000100#16 = .ok (.jp 0x204#12) ∧
  decodeWord 0b0011000100000000#16 = .ok (.seImm 1 0x00#8) ∧
  decodeWord 0b0111000111111111#16 = .ok (.addImm 1 0xFF#8) ∧
  decodeWord 0b1000000000010100#16 = .ok (.addReg 0 1) ∧
  decodeWord 0b1010001100000000#16 = .ok (.ldI 0x300#12) ∧
  decodeWord 0b1100000000001111#16 = .ok (.rnd 0 0x0F#8) ∧
  decodeWord 0b1101000000010010#16 = .ok (.drw 0 1 2) ∧
  decodeWord 0b1110000010011110#16 = .ok (.skp 0) ∧
  decodeWord 0b1111000100001010#16 = .ok (.ldVxK 1) ∧
  decodeWord 0b1111000000010101#16 = .ok (.ldDtVx 0)

/-- O8. A step runs the instruction that the bytes at PC decode to.
R80, R53 (big-endian fetch), R23 (during the execution PC holds the address of the instruction). -/
def Obligations.StepRunsTheDecodedInstruction : Prop :=
  ∀ (s : State) (i : Instr), s.mode = .running → s.pc.toNat % 2 = 0 → s.pc.toNat ≤ 0xFFE →
    decode [s.peek s.pc.toNat, s.peek (s.pc.toNat + 1)] = .ok (i, []) → step s = exec i s

/-- O9. The fetch tests bounds, then parity, and a waiting core tests neither.
R80, R204, R208, R24. The order and the kind MisalignedPC are the spec's decisions D1, D2, D4 (logs 7, 8, 10). -/
def Obligations.FetchTestsInOrder : Prop :=
  ∀ s : State,
    (s.mode = .running → 0xFFE < s.pc.toNat → step s = .fault .memoryOutOfBounds) ∧
    (step s = .fault .misalignedPC ↔ s.mode = .running ∧ s.pc.toNat ≤ 0xFFE ∧ s.pc.toNat % 2 = 1) ∧
    (s.mode = .awaitingKey → ∃ t, step s = .next t) ∧
    (∀ t, s.mode = .running → step s = .next t → s.pc.toNat ≤ 0xFFE ∧ s.pc.toNat % 2 = 0)

/-- O10. No instruction and no step is refused.
R80: `step()` is defined on every state and returns either success or one error kind. -/
def Obligations.StepNeverRefuses : Prop :=
  (∀ (i : Instr) (s : State) (r : Refusal), exec i s ≠ .refused r) ∧
  (∀ (s : State) (r : Refusal), step s ≠ .refused r)

/-- O11. InvalidOpcode is raised exactly when the fetched word matches no row.
R200, R221. That the raising step leaves the whole state as it was is the spec's decision D3 (log 9, DESIGN CHOICE). -/
def Obligations.UnmatchedWordRaisesInvalidOpcode : Prop :=
  ∀ s : State,
    (step s = .fault .invalidOpcode ↔
      s.mode = .running ∧ ∃ op, s.fetch = .ok op ∧ ∀ row ∈ opcodeTable, op &&& row.1 ≠ row.2) ∧
    (step s = .fault .invalidOpcode → transact s .step = .ok (s, .error .invalidOpcode))

/-- O12. StackOverflow is raised by CALL at SP = 16 only, StackUnderflow by RET at SP = 0 only.
R201, R202. -/
def Obligations.StackErrorsExactly : Prop :=
  ∀ (i : Instr) (s : State),
    (exec i s = .fault .stackOverflow ↔ (∃ nnn, i = .call nnn) ∧ s.sp.val = 16) ∧
    (exec i s = .fault .stackUnderflow ↔ i = .ret ∧ s.sp.val = 0)

/-- O13. MemoryOutOfBounds is raised by the four indexed accesses exactly when the range passes 0xFFF.
R203's table, R208 (the other 28 instructions raise nothing). D15, D19 (logs 17, 20). -/
def Obligations.MemoryErrorsExactly : Prop :=
  ∀ (i : Instr) (s : State),
    (exec i s = .fault .memoryOutOfBounds ↔
      (∃ x y n, i = .drw x y n ∧ 0 < n ∧ 0x1000 < s.i.toNat + n) ∨
      (∃ x, i = .ldB x ∧ 0xFFF < s.i.toNat + 2) ∨
      (∃ x : Reg, (i = .dump x ∨ i = .load x) ∧ 0xFFF < s.i.toNat + x.val)) ∧
    exec i s ≠ .fault .invalidOpcode ∧ exec i s ≠ .fault .misalignedPC

/-- O14. A state whose step raises is dead: every later step raises the same error.
R221, R222, R223. Rests on the spec's decisions D3 and D28 (log 9). -/
def Obligations.DeadStateStaysDead : Prop :=
  ∀ (s s' : State) (k : Fault) (ts : List Transaction) (rs : List Response),
    step s = .fault k → (∀ t ∈ ts, t.isRunning = true) → transactAll s ts = .ok (s', rs) →
    step s' = .fault k ∧ transact s' .step = .ok (s', .error k) ∧
      s' = { s with dt := s'.dt, st := s'.st, keys := s'.keys }

/-- O15. CLS clears every pixel and changes nothing else but PC.
R170. -/
def Obligations.ClearScreenRule : Prop :=
  decodeWord 0x00E0#16 = .ok .cls ∧
  ∀ s : State, ∃ t, exec .cls s = .next t ∧ (∀ row col, t.fb.pixel row col = false) ∧ t.pc = s.pc + 2#16 ∧
    SameRegs s t ∧ t.i = s.i ∧ SameMemory s t ∧ SameRest s t

/-- O16. RET pops the stack into PC, or raises StackUnderflow when it is empty.
R100. -/
def Obligations.ReturnRule : Prop :=
  decodeWord 0x00EE#16 = .ok .ret ∧
  ∀ s : State,
    (0 < s.sp.val → ∃ t, exec .ret s = .next t ∧ t.sp.val + 1 = s.sp.val ∧
      (∀ k : Fin 16, k.val = t.sp.val → t.pc = s.stack[k.val]) ∧ (∀ k : Fin 16, t.stack[k.val] = s.stack[k.val]) ∧
      SameRegs s t ∧ t.i = s.i ∧ SameMemory s t ∧ SameScreen s t ∧ SameTimers s t ∧ SameWait s t ∧
      SameInputs s t ∧ t.draws = s.draws) ∧
    (s.sp.val = 0 → exec .ret s = .fault .stackUnderflow)

/-- O17. JP and JP V0 write PC and nothing else.
R101, R103. -/
def Obligations.JumpRules : Prop :=
  ∀ (nnn : BitVec 12) (s : State),
    decodeWord (formatA 0x1#4 nnn) = .ok (.jp nnn) ∧ decodeWord (formatA 0xB#4 nnn) = .ok (.jpV0 nnn) ∧
    (∃ t, exec (.jp nnn) s = .next t ∧ t.pc.toNat = nnn.toNat ∧
      SameRegs s t ∧ t.i = s.i ∧ SameMemory s t ∧ SameScreen s t ∧ SameRest s t) ∧
    (∃ t, exec (.jpV0 nnn) s = .next t ∧ t.pc.toNat = nnn.toNat + (s.reg 0).toNat ∧
      SameRegs s t ∧ t.i = s.i ∧ SameMemory s t ∧ SameScreen s t ∧ SameRest s t)

/-- O18. CALL pushes PC + 2 and jumps, or raises StackOverflow when the stack is full.
R102. -/
def Obligations.CallRule : Prop :=
  ∀ (nnn : BitVec 12) (s : State),
    decodeWord (formatA 0x2#4 nnn) = .ok (.call nnn) ∧
    (s.sp.val < 16 → ∃ t, exec (.call nnn) s = .next t ∧ t.pc.toNat = nnn.toNat ∧ t.sp.val = s.sp.val + 1 ∧
      (∀ k : Fin 16, t.stack[k.val] = if k.val = s.sp.val then s.pc + 2#16 else s.stack[k.val]) ∧
      SameRegs s t ∧ t.i = s.i ∧ SameMemory s t ∧ SameScreen s t ∧ SameTimers s t ∧ SameWait s t ∧
      SameInputs s t ∧ t.draws = s.draws) ∧
    (s.sp.val = 16 → exec (.call nnn) s = .fault .stackOverflow)

/-- O19. SE and SNE skip one instruction when their condition holds, and write nothing but PC.
R110 to R114. -/
def Obligations.RegisterSkipRules : Prop :=
  ∀ (x y : Reg) (nn : Byte) (s : State),
    decodeWord (formatXI 0x3#4 x nn) = .ok (.seImm x nn) ∧ decodeWord (formatXI 0x4#4 x nn) = .ok (.sneImm x nn) ∧
    decodeWord (formatXY 0x5#4 x y 0x0#4) = .ok (.seReg x y) ∧
    decodeWord (formatXY 0x9#4 x y 0x0#4) = .ok (.sneReg x y) ∧
    SkipsWhen (.seImm x nn) s (s.reg x = nn) ∧ SkipsWhen (.sneImm x nn) s (s.reg x ≠ nn) ∧
    SkipsWhen (.seReg x y) s (s.reg x = s.reg y) ∧ SkipsWhen (.sneReg x y) s (s.reg x ≠ s.reg y)

/-- O20. SKP and SKNP skip on the level of the key that the low nibble of Vx selects.
R180, R181, R184. The low nibble is the spec's decision D11 (log 13). -/
def Obligations.KeySkipRules : Prop :=
  ∀ (x : Reg) (s : State),
    decodeWord (formatX 0xE#4 x 0x9E#8) = .ok (.skp x) ∧ decodeWord (formatX 0xE#4 x 0xA1#8) = .ok (.sknp x) ∧
    SkipsWhen (.skp x) s (s.keys.getLsbD ((s.reg x).toNat % 16) = true) ∧
    SkipsWhen (.sknp x) s (s.keys.getLsbD ((s.reg x).toNat % 16) = false)

/-- O21. LD Vx, nn and ADD Vx, nn write Vx only, without a flag.
R120, R121. -/
def Obligations.ImmediateRules : Prop :=
  ∀ (x : Reg) (nn : Byte) (s : State),
    decodeWord (formatXI 0x6#4 x nn) = .ok (.ldImm x nn) ∧ decodeWord (formatXI 0x7#4 x nn) = .ok (.addImm x nn) ∧
    SetsRegs (.ldImm x nn) s (fun r => if r = x then nn else s.reg r) ∧
    SetsRegs (.addImm x nn) s
      (fun r => if r = x then BitVec.ofNat 8 (((s.reg x).toNat + nn.toNat) % 256) else s.reg r)

/-- O22. LD Vx, Vy and the three logic instructions write Vx only; VF is not reset.
R132 to R135. -/
def Obligations.CopyAndLogicRules : Prop :=
  ∀ (x y : Reg) (s : State),
    decodeWord (formatXY 0x8#4 x y 0x0#4) = .ok (.ldReg x y) ∧ decodeWord (formatXY 0x8#4 x y 0x1#4) = .ok (.orReg x y) ∧
    decodeWord (formatXY 0x8#4 x y 0x2#4) = .ok (.andReg x y) ∧
    decodeWord (formatXY 0x8#4 x y 0x3#4) = .ok (.xorReg x y) ∧
    SetsRegs (.ldReg x y) s (fun r => if r = x then s.reg y else s.reg r) ∧
    (∃ b : Byte, (∀ k, b.getLsbD k = ((s.reg x).getLsbD k || (s.reg y).getLsbD k)) ∧
      SetsRegs (.orReg x y) s (fun r => if r = x then b else s.reg r)) ∧
    (∃ b : Byte, (∀ k, b.getLsbD k = ((s.reg x).getLsbD k && (s.reg y).getLsbD k)) ∧
      SetsRegs (.andReg x y) s (fun r => if r = x then b else s.reg r)) ∧
    (∃ b : Byte, (∀ k, b.getLsbD k = ((s.reg x).getLsbD k != (s.reg y).getLsbD k)) ∧
      SetsRegs (.xorReg x y) s (fun r => if r = x then b else s.reg r))

/-- O23. ADD, SUB and SUBN write the result modulo 256 to Vx, then carry or NOT borrow to VF.
R130, R131, R136, R137, R139. The order is the spec's decision D6 (log 11), the equality case D35 (log 22). -/
def Obligations.AddAndSubtractRules : Prop :=
  ∀ (x y : Reg) (s : State),
    decodeWord (formatXY 0x8#4 x y 0x4#4) = .ok (.addReg x y) ∧ decodeWord (formatXY 0x8#4 x y 0x5#4) = .ok (.subReg x y) ∧
    decodeWord (formatXY 0x8#4 x y 0x7#4) = .ok (.subnReg x y) ∧
    SetsRegs (.addReg x y) s (fun r =>
      if r.val = 15 then (if (s.reg x).toNat + (s.reg y).toNat > 255 then 1#8 else 0#8)
      else if r = x then BitVec.ofNat 8 (((s.reg x).toNat + (s.reg y).toNat) % 256) else s.reg r) ∧
    SetsRegs (.subReg x y) s (fun r =>
      if r.val = 15 then (if (s.reg x).toNat ≥ (s.reg y).toNat then 1#8 else 0#8)
      else if r = x then BitVec.ofNat 8 (((s.reg x).toNat + 256 - (s.reg y).toNat) % 256) else s.reg r) ∧
    SetsRegs (.subnReg x y) s (fun r =>
      if r.val = 15 then (if (s.reg y).toNat ≥ (s.reg x).toNat then 1#8 else 0#8)
      else if r = x then BitVec.ofNat 8 (((s.reg y).toNat + 256 - (s.reg x).toNat) % 256) else s.reg r)

/-- O24. SHR and SHL shift the source that the toggle selects by one, and VF gets the bit shifted out.
R130, R138, R140, R141, for both values of the toggle. The order is the spec's decision D6 (log 11). -/
def Obligations.ShiftRules : Prop :=
  ∀ (x y : Reg) (s : State) (src : Nat),
    (s.cfg.shiftSourceVy = true → src = (s.reg y).toNat) → (s.cfg.shiftSourceVy = false → src = (s.reg x).toNat) →
    decodeWord (formatXY 0x8#4 x y 0x6#4) = .ok (.shr x y) ∧ decodeWord (formatXY 0x8#4 x y 0xE#4) = .ok (.shl x y) ∧
    SetsRegs (.shr x y) s (fun r =>
      if r.val = 15 then BitVec.ofNat 8 (src % 2) else if r = x then BitVec.ofNat 8 (src / 2) else s.reg r) ∧
    SetsRegs (.shl x y) s (fun r =>
      if r.val = 15 then BitVec.ofNat 8 (src / 128) else if r = x then BitVec.ofNat 8 (src * 2 % 256) else s.reg r)

/-- O25. LD I, nnn sets I to the 12-bit immediate.
R150. -/
def Obligations.LoadIndexRule : Prop :=
  ∀ (nnn : BitVec 12) (s : State),
    decodeWord (formatA 0xA#4 nnn) = .ok (.ldI nnn) ∧ SetsIndex (.ldI nnn) s (BitVec.ofNat 16 nnn.toNat)

/-- O26. ADD I, Vx adds modulo 65536, and writes VF only when the toggle is set.
R151, R130, for both values of the toggle. The flag's details are the spec's decision D10 (log 12). -/
def Obligations.AddIndexRule : Prop :=
  ∀ (x : Reg) (s : State),
    decodeWord (formatX 0xF#4 x 0x1E#8) = .ok (.addI x) ∧
    ∃ t, exec (.addI x) s = .next t ∧ t.i.toNat = (s.i.toNat + (s.reg x).toNat) % 65536 ∧ t.pc = s.pc + 2#16 ∧
      (s.cfg.iOverflowSetsVf = false → SameRegs s t) ∧
      (s.cfg.iOverflowSetsVf = true → ∀ r : Reg, t.reg r =
        if r.val = 15 then (if s.i.toNat + (s.reg x).toNat > 0xFFF then 1#8 else 0#8) else s.reg r) ∧
      SameMemory s t ∧ SameScreen s t ∧ SameRest s t

/-- O27. LD F, Vx sets I to the glyph address of the low nibble of Vx.
R152, R64. The low nibble is the spec's decision D12 (log 14). -/
def Obligations.GlyphAddressRule : Prop :=
  ∀ (x : Reg) (s : State),
    decodeWord (formatX 0xF#4 x 0x29#8) = .ok (.ldF x) ∧
    SetsIndex (.ldF x) s (BitVec.ofNat 16 (0x50 + 5 * ((s.reg x).toNat % 16)))

/-- O28. LD B, Vx stores the three decimal digits of Vx at I, I + 1, I + 2, or raises MemoryOutOfBounds.
R153. The premise on memory is a clause of the invariant (`InvariantKeptByStep`). -/
def Obligations.DecimalStoreRule : Prop :=
  ∀ (x : Reg) (s : State),
    decodeWord (formatX 0xF#4 x 0x33#8) = .ok (.ldB x) ∧
    (s.mem.wf s.cfg.resetByte = true → s.i.toNat + 2 ≤ 0xFFF → ∃ t, exec (.ldB x) s = .next t ∧
      (t.peek s.i.toNat).toNat ≤ 9 ∧ (t.peek (s.i.toNat + 1)).toNat ≤ 9 ∧ (t.peek (s.i.toNat + 2)).toNat ≤ 9 ∧
      100 * (t.peek s.i.toNat).toNat + 10 * (t.peek (s.i.toNat + 1)).toNat + (t.peek (s.i.toNat + 2)).toNat =
        (s.reg x).toNat ∧
      SameMemoryOutside s.i.toNat 3 s t ∧ t.i = s.i ∧ t.pc = s.pc + 2#16 ∧ SameRegs s t ∧ SameScreen s t ∧
      SameRest s t) ∧
    (0xFFF < s.i.toNat + 2 → exec (.ldB x) s = .fault .memoryOutOfBounds)

/-- O29. LD [I], Vx stores V0 to Vx from I on, moves I when the toggle says so, or raises MemoryOutOfBounds.
R154, R156, for both values of the toggle. D16, D33 (logs 18, 32). -/
def Obligations.RegisterDumpRule : Prop :=
  ∀ (x : Reg) (s : State),
    decodeWord (formatX 0xF#4 x 0x55#8) = .ok (.dump x) ∧
    (s.mem.wf s.cfg.resetByte = true → s.i.toNat + x.val ≤ 0xFFF → ∃ t, exec (.dump x) s = .next t ∧
      (∀ k : Reg, k ≤ x → t.peek (s.i.toNat + k.val) = s.reg k) ∧
      SameMemoryOutside s.i.toNat (x.val + 1) s t ∧
      (s.cfg.iIncrement = true → t.i.toNat = s.i.toNat + x.val + 1) ∧ (s.cfg.iIncrement = false → t.i = s.i) ∧
      t.pc = s.pc + 2#16 ∧ SameRegs s t ∧ SameScreen s t ∧ SameRest s t) ∧
    (0xFFF < s.i.toNat + x.val → exec (.dump x) s = .fault .memoryOutOfBounds)

/-- O30. LD Vx, [I] loads V0 to Vx from I on, moves I when the toggle says so, or raises MemoryOutOfBounds.
R155, R156, for both values of the toggle. D16, D33 (logs 18, 32). -/
def Obligations.RegisterLoadRule : Prop :=
  ∀ (x : Reg) (s : State),
    decodeWord (formatX 0xF#4 x 0x65#8) = .ok (.load x) ∧
    (s.i.toNat + x.val ≤ 0xFFF → ∃ t, exec (.load x) s = .next t ∧
      (∀ k : Reg, t.reg k = if k ≤ x then s.peek (s.i.toNat + k.val) else s.reg k) ∧ SameMemory s t ∧
      (s.cfg.iIncrement = true → t.i.toNat = s.i.toNat + x.val + 1) ∧ (s.cfg.iIncrement = false → t.i = s.i) ∧
      t.pc = s.pc + 2#16 ∧ SameScreen s t ∧ SameRest s t) ∧
    (0xFFF < s.i.toNat + x.val → exec (.load x) s = .fault .memoryOutOfBounds)

/-- O31. RND writes a freshly drawn byte AND nn to Vx and nothing else.
R160, R161. That the byte is `Config.drawByte s.draws` and that the counter `draws` advances by one are the model's
choice (log 1, DESIGN CHOICE), its form of the free draw of the spec's decision D21; no rule names a counter. -/
def Obligations.RandomRule : Prop :=
  ∀ (x : Reg) (nn : Byte) (s : State),
    decodeWord (formatXI 0xC#4 x nn) = .ok (.rnd x nn) ∧
    ∃ t, exec (.rnd x nn) s = .next t ∧
      (∀ k, (t.reg x).getLsbD k = ((Config.drawByte s.draws).getLsbD k && nn.getLsbD k)) ∧
      SameRegsBut (fun r => r = x) s t ∧ t.pc = s.pc + 2#16 ∧ t.i = s.i ∧ t.draws = s.draws + 1 ∧
      SameMemory s t ∧ SameScreen s t ∧ SameStack s t ∧ SameTimers s t ∧ SameWait s t ∧ SameInputs s t

/-- O32. DRW flips exactly the pixels under the sprite, wrapped, and VF records a collision.
R171, R172. The geometry and the wrapping of every pixel are the spec's reading D14 (log 16); D15, D6 (logs 17, 11). -/
def Obligations.DrawRule : Prop :=
  ∀ (x y : Reg) (n : Nat) (s : State), n ≤ 15 →
    decodeWord (formatXY 0xD#4 x y (BitVec.ofNat 4 n)) = .ok (.drw x y n) ∧
    ((n = 0 ∨ s.i.toNat + n ≤ 0x1000) → ∃ t, exec (.drw x y n) s = .next t ∧
      (∀ row col, SpriteCovers s x y n row col → t.fb.pixel row col = !s.fb.pixel row col) ∧
      (∀ row col, ¬ SpriteCovers s x y n row col → t.fb.pixel row col = s.fb.pixel row col) ∧
      ((∃ row col, SpriteCovers s x y n row col ∧ s.fb.pixel row col = true) → t.reg 15 = 1#8) ∧
      ((∀ row col, SpriteCovers s x y n row col → s.fb.pixel row col = false) → t.reg 15 = 0#8) ∧
      SameRegsBut (fun r => r = 15) s t ∧ t.pc = s.pc + 2#16 ∧ t.i = s.i ∧ SameMemory s t ∧ SameRest s t) ∧
    (0 < n → 0x1000 < s.i.toNat + n → exec (.drw x y n) s = .fault .memoryOutOfBounds)

/-- O33. Drawing the same sprite twice at the same place restores the framebuffer.
R173: XOR-draw is its own inverse. -/
def Obligations.DrawTwiceRestores : Prop :=
  ∀ (x y : Reg) (n : Nat) (s t u : State), n ≤ 15 → exec (.drw x y n) s = .next t →
    u.fb = t.fb → u.i = s.i → (∀ k, k < n → u.peek (s.i.toNat + k) = s.peek (s.i.toNat + k)) →
    u.reg x = s.reg x → u.reg y = s.reg y →
    ∃ w, exec (.drw x y n) u = .next w ∧ (∀ row col, w.fb.pixel row col = s.fb.pixel row col) ∧
      ((∃ row col, SpriteCovers s x y n row col ∧ s.fb.pixel row col = false) → w.reg 15 = 1#8) ∧
      ((∀ row col, SpriteCovers s x y n row col → s.fb.pixel row col = true) → w.reg 15 = 0#8)

/-- O34. LD Vx, K starts a key wait: it latches x and the keys, and PC stays.
R182. The latch is the spec's mechanism D13 (log 15). -/
def Obligations.KeyWaitStartRule : Prop :=
  ∀ (x : Reg) (s : State),
    decodeWord (formatX 0xF#4 x 0x0A#8) = .ok (.ldVxK x) ∧
    ∃ t, exec (.ldVxK x) s = .next t ∧ t.mode = .awaitingKey ∧ t.waitX = x ∧ t.kprev = s.keys ∧ t.pc = s.pc ∧
      SameRegs s t ∧ t.i = s.i ∧ SameMemory s t ∧ SameScreen s t ∧ SameStack s t ∧ SameTimers s t ∧
      SameInputs s t ∧ t.draws = s.draws

/-- O35. A step of a waiting core polls: the least newly pressed key ends the wait.
R183. The mechanism is the spec's decision D13 (log 15). -/
def Obligations.KeyWaitPollRule : Prop :=
  ∀ s : State, s.mode = .awaitingKey →
    ((∀ k, ¬ NewlyDown s k) → ∃ t, step s = .next t ∧ t.kprev = s.keys ∧ t.mode = .awaitingKey ∧ t.waitX = s.waitX ∧
      t.pc = s.pc ∧ SameRegs s t ∧ t.i = s.i ∧ SameMemory s t ∧ SameScreen s t ∧ SameStack s t ∧ SameTimers s t ∧
      SameInputs s t ∧ t.draws = s.draws) ∧
    (∀ k, NewlyDown s k → (∀ j, j < k → ¬ NewlyDown s j) → ∃ t, step s = .next t ∧
      (t.reg s.waitX).toNat = k.val ∧ t.pc = s.pc + 2#16 ∧ t.mode = .running ∧ t.waitX = s.waitX ∧ t.kprev = s.kprev ∧
      SameRegsBut (fun r => r = s.waitX) s t ∧ t.i = s.i ∧ SameMemory s t ∧ SameScreen s t ∧ SameStack s t ∧
      SameTimers s t ∧ SameInputs s t ∧ t.draws = s.draws)

/-- O36. While no key is newly pressed a wait goes on, and the timers go on counting down.
R183, R225, R205: the source's sixth testable property (S8). D13 (log 15). -/
def Obligations.WaitHoldsWhileTimersRun : Prop :=
  ∀ (s : State) (ts : List Transaction), s.mode = .awaitingKey → (∀ k, ¬ NewlyDown s k) →
    (∀ a ∈ ts, a = .step ∨ a = .tickTimers) →
    ∃ t rs, transactAll s ts = .ok (t, rs) ∧ t.mode = .awaitingKey ∧ t.waitX = s.waitX ∧ t.pc = s.pc ∧
      SameRegs s t ∧ t.i = s.i ∧ SameMemory s t ∧ SameScreen s t ∧ SameStack s t ∧ SameInputs s t ∧
      t.dt.toNat = s.dt.toNat - ts.count .tickTimers ∧ t.st.toNat = s.st.toNat - ts.count .tickTimers

/-- O37. The three timer instructions read DT and write DT and ST, and nothing else.
R190, R191, R192. -/
def Obligations.TimerAccessRules : Prop :=
  ∀ (x : Reg) (s : State),
    decodeWord (formatX 0xF#4 x 0x07#8) = .ok (.ldVxDt x) ∧ decodeWord (formatX 0xF#4 x 0x15#8) = .ok (.ldDtVx x) ∧
    decodeWord (formatX 0xF#4 x 0x18#8) = .ok (.ldStVx x) ∧
    SetsRegs (.ldVxDt x) s (fun r => if r = x then s.dt else s.reg r) ∧
    (∃ t, exec (.ldDtVx x) s = .next t ∧ t.dt = s.reg x ∧ t.st = s.st ∧ t.pc = s.pc + 2#16 ∧ SameRegs s t ∧ t.i = s.i ∧
      SameMemory s t ∧ SameScreen s t ∧ SameStack s t ∧ SameWait s t ∧ SameInputs s t ∧ t.draws = s.draws) ∧
    (∃ t, exec (.ldStVx x) s = .next t ∧ t.st = s.reg x ∧ t.dt = s.dt ∧ t.pc = s.pc + 2#16 ∧ SameRegs s t ∧ t.i = s.i ∧
      SameMemory s t ∧ SameScreen s t ∧ SameStack s t ∧ SameWait s t ∧ SameInputs s t ∧ t.draws = s.draws)

/-- O38. A tick lowers each timer by 1, floored at 0, in both modes, and touches nothing else.
R205 (natural subtraction floors at 0). -/
def Obligations.TickRule : Prop :=
  ∀ s : State, ∃ t, transact s .tickTimers = .ok (t, .ok) ∧ t.dt.toNat = s.dt.toNat - 1 ∧ t.st.toNat = s.st.toNat - 1 ∧
    SameRegs s t ∧ t.pc = s.pc ∧ t.i = s.i ∧ SameMemory s t ∧ SameScreen s t ∧ SameStack s t ∧ SameWait s t ∧
    SameInputs s t ∧ t.draws = s.draws

/-- O39. After n ticks a timer of value t holds t - n, floored at 0.
R206. -/
def Obligations.TicksCountDown : Prop :=
  ∀ (s : State) (n : Nat), ∃ t, transactAll s (List.replicate n .tickTimers) = .ok (t, List.replicate n .ok) ∧
    t.dt.toNat = s.dt.toNat - n ∧ t.st.toNat = s.st.toNat - n

/-- O40. What every completed instruction writes to PC.
R81. -/
def Obligations.ProgramCounterRule : Prop :=
  ∀ (i : Instr) (s t : State), exec i s = .next t →
    (match i with
      | .ret => ∀ k : Fin 16, k.val + 1 = s.sp.val → t.pc = s.stack[k.val]
      | .jp nnn => t.pc.toNat = nnn.toNat
      | .call nnn => t.pc.toNat = nnn.toNat
      | .jpV0 nnn => t.pc.toNat = nnn.toNat + (s.reg 0).toNat
      | .seImm _ _ | .sneImm _ _ | .seReg _ _ | .sneReg _ _ | .skp _ | .sknp _ =>
        t.pc = s.pc + 4#16 ∨ t.pc = s.pc + 2#16
      | .ldVxK _ => t.pc = s.pc
      | .cls | .ldImm _ _ | .addImm _ _ | .ldReg _ _ | .orReg _ _ | .andReg _ _ | .xorReg _ _ | .addReg _ _
      | .subReg _ _ | .shr _ _ | .subnReg _ _ | .shl _ _ | .ldI _ | .rnd _ _ | .drw _ _ _ | .ldVxDt _ | .ldDtVx _
      | .ldStVx _ | .addI _ | .ldF _ | .ldB _ | .dump _ | .load _ => t.pc = s.pc + 2#16) ∧
    (s.pc.toNat ≤ 0xFFE →
      (s.pc + 2#16).toNat = s.pc.toNat + 2 ∧ (s.pc + 4#16).toNat = s.pc.toNat + 4)

/-- O41. No instruction writes a general register that its row of the table of writers does not name.
R20's table of writers, R21: VF is overwritten only by instructions whose specification says so. -/
def Obligations.RegistersWrittenOnlyAsListed : Prop :=
  ∀ (i : Instr) (s t : State), exec i s = .next t → SameRegsBut (writtenRegs s.cfg i) s t

/-- O42. Only LD B and LD [I] write memory, only CLS and DRW write the screen.
R50, R28: FB is mutated only through CLS and DRW. -/
def Obligations.MemoryAndScreenWriters : Prop :=
  ∀ s t : State, step s = .next t →
    ((∀ x, ¬ AboutToRun s (.ldB x) ∧ ¬ AboutToRun s (.dump x)) → SameMemory s t) ∧
    (¬ AboutToRun s .cls → (∀ x y n, ¬ AboutToRun s (.drw x y n)) → SameScreen s t)

/-- O43. Only CALL and RET write the stack, only LD DT and LD ST the timers, only five instructions I.
R22, R25, R26, R27, R206. -/
def Obligations.StackIndexAndTimerWriters : Prop :=
  ∀ s t : State, step s = .next t →
    (¬ AboutToRun s .ret → (∀ nnn, ¬ AboutToRun s (.call nnn)) → SameStack s t) ∧
    ((∀ x, ¬ AboutToRun s (.ldDtVx x)) → t.dt = s.dt) ∧ ((∀ x, ¬ AboutToRun s (.ldStVx x)) → t.st = s.st) ∧
    ((∀ nnn, ¬ AboutToRun s (.ldI nnn)) → (∀ x, ¬ AboutToRun s (.addI x) ∧ ¬ AboutToRun s (.ldF x)) →
      (s.cfg.iIncrement = true → ∀ x, ¬ AboutToRun s (.dump x) ∧ ¬ AboutToRun s (.load x)) → t.i = s.i)

/-- O44. No step writes the keys or the configuration, and only LD Vx, K and its poll change MODE.
R29, R80 (KEYS is never written by a step), R30, R182, R183 (MODE), R161, R214 (the random source feeds RND only),
R6, R213 (the configuration). The draw counter is the model's own (log 1, DESIGN CHOICE); that the configuration is
constant is the spec's decision D9 (logs 5, 26, DESIGN CHOICE); `NewlyDown` is the key wait of D13 (log 15,
DESIGN CHOICE). -/
def Obligations.InputsAndModeWriters : Prop :=
  (∀ s t : State, step s = .next t →
    SameInputs s t ∧ ((∀ x nn, ¬ AboutToRun s (.rnd x nn)) → t.draws = s.draws) ∧
    (s.mode = .running → t.mode = .awaitingKey → ∃ x, AboutToRun s (.ldVxK x)) ∧
    (s.mode = .awaitingKey → t.mode = .running → ∃ k, NewlyDown s k)) ∧
  (∀ (s t : State) (a : Transaction) (r : Response), transact s a = .ok (t, r) → (∀ cfg, a ≠ .configure cfg) →
    t.cfg = s.cfg)

/-- O45. A balanced sequence of CALLs and RETs restores the stack and returns after the CALL.
R102, R100: the source's fifth testable property (S7). The stack organisation is the spec's decision D20 (log 21). -/
def Obligations.BalancedCallsRestoreTheStack : Prop :=
  (∀ (is : List Instr) (s t : State), Balanced is → execAll is s = .next t →
    t.sp = s.sp ∧ ∀ k : Fin 16, k.val < s.sp.val → t.stack[k.val] = s.stack[k.val]) ∧
  (∀ (nnn : BitVec 12) (body : List Instr) (s t : State), Balanced body →
    execAll (.call nnn :: body ++ [.ret]) s = .next t → t.pc = s.pc + 2#16 ∧ t.sp = s.sp)

/-- O46. Every step keeps the machine's invariant.
R24 (the largest values a step can write to PC), R100 (what a popped value is), R30 and R182 (the wait).
The unchecked PC is the spec's decision D1 (log 7), the stack D20 (log 21), the wait D13 (log 15). -/
def Obligations.InvariantKeptByStep : Prop :=
  ∀ s t : State, s.Inv → step s = .next t → t.Inv

/-- O47. The state after reset satisfies the invariant.
R240, R241. The reset values are the spec's decisions D22, D23 (logs 2, 3). -/
def Obligations.InvariantAtReset : Prop :=
  State.reset.Inv ∧ ∀ (cfg : Config) (n : Nat), (State.resetWith cfg n).Inv

/-- O48. Every transaction of every agent keeps the invariant, so it holds in every run from boot.
R35, R24, R217, R244. Any interleaving is the spec's decision D26 (log 27); that configure and load_rom are accepted
whenever the state equals the reset state is the model's choice (logs 24, 26, 35, DESIGN CHOICE). -/
def Obligations.InvariantInEveryRun : Prop :=
  (∀ (s t : State) (a : Transaction) (r : Response), s.Inv → transact s a = .ok (t, r) → t.Inv) ∧
  (∀ (cfg : Config) (ts : List Transaction) (s : State) (rs : List Response),
    transactAll (State.resetWith cfg 0) ts = .ok (s, rs) → s.Inv)

/-- O49. Stack entries at SP and above, and the wait latch of a running core, have no effect.
R25 (entries at index SP and above are never read), R30, R241. The stack and the wait latch are the spec's
decisions D20, D13 (logs 21, 15).
For RND both sides draw by the same counter, so the same byte: the model's choice (log 1, DESIGN CHOICE, unsafe here),
which no rule says; by R161 two executions are unrelated. -/
def Obligations.StaleStateIsUnobservable : Prop :=
  ∀ s u : State, SameObservable s u →
    (∀ t, step s = .next t → ∃ w, step u = .next w ∧ SameObservable t w) ∧
    (∀ k, step s = .fault k → step u = .fault k)

/-- O50. A tick before or after a step makes no difference unless the step runs a timer instruction.
R206, R217: two clocks, decoupled. The interleaving is the spec's decision D26 (log 27).
For RND both sides draw by the same counter, so the same byte: the model's choice (log 1, DESIGN CHOICE, unsafe here),
which no rule says; by R161 two executions are unrelated. -/
def Obligations.TicksCommuteWithSteps : Prop :=
  ∀ s : State, (∀ i, AboutToRun s i → ¬ usesTimers i) →
    (∀ t, step s = .next t → step s.tickTimers = .next t.tickTimers) ∧
    (∀ k, step s = .fault k → step s.tickTimers = .fault k)

/-- O51. A key event before or after a step makes no difference unless the step reads the keys.
R29 (the readers of KEYS), R210. The interleaving is the spec's decision D26 (log 27).
For RND both sides draw by the same counter, so the same byte: the model's choice (log 1, DESIGN CHOICE, unsafe here),
which no rule says; by R161 two executions are unrelated. -/
def Obligations.KeysReadOnlyByKeyInstructions : Prop :=
  ∀ (s : State) (k : Key) (p : Bool), s.mode = .running → (∀ i, AboutToRun s i → ¬ readsKeys i) →
    (∀ t, step s = .next t → step (s.setKey k p) = .next (t.setKey k p)) ∧
    (∀ f, step s = .fault f → step (s.setKey k p) = .fault f)

/-- O52. Canonical memories that read alike at every address are the same list.
R31, R50, through the model's canonical form. -/
def Obligations.EqualMemoriesAreEqualData : Prop :=
  ∀ (c : Config) (m m' : Memory), m.wf c.resetByte = true → m'.wf c.resetByte = true →
    (∀ a, a ≤ 0xFFF → m.read c.resetByte a = m'.read c.resetByte a) → m = m'

/-- O53. A store over the next instruction is what the next fetch sees.
R63: self-modifying code needs nothing. -/
def Obligations.StoreIsSeenByTheNextFetch : Prop :=
  ∀ (x : Reg) (s : State), s.mem.wf s.cfg.resetByte = true → 1 ≤ x.val → s.pc.toNat % 2 = 0 → s.pc.toNat + 2 ≤ 0xFFE →
    s.i.toNat = s.pc.toNat + 2 → s.i.toNat + x.val ≤ 0xFFF →
    ∃ t op, exec (.dump x) s = .next t ∧ t.fetch = .ok op ∧
      op.toNat = (s.reg 0).toNat * 256 + (s.reg 1).toNat

/-- O54. After reset memory is zero but for the 80 font bytes.
R31, R240, for every font table (R64). That reset succeeds at every state and erases memory is the spec's decision
D22 (log 31, DESIGN CHOICE). -/
def Obligations.ResetMemoryImage : Prop :=
  ∀ s : State, ∃ t, transact s .reset = .ok (t, .ok) ∧
    (∀ k : Fin 80, t.peek (0x50 + k.val) = s.cfg.fontTable[k.val]) ∧
    (∀ a, a ≤ 0xFFF → a < 0x50 ∨ 0x9F < a → t.peek a = 0x00#8)

/-- O55. After reset every register has the value the spec decides, and PC is 0x200.
R240, R241. The values are the spec's decisions D22, D23 (logs 2, 3); logs 4, 5 and 31 for the
last clause. -/
def Obligations.ResetRegisterValues : Prop :=
  ∀ s : State, ∃ t, transact s .reset = .ok (t, .ok) ∧ (∀ r, t.reg r = 0#8) ∧ t.i = 0#16 ∧ t.pc = 0x0200#16 ∧
    t.sp = 0 ∧ (∀ k : Fin 16, t.stack[k.val] = 0#16) ∧ t.dt = 0#8 ∧ t.st = 0#8 ∧
    (∀ row col, t.fb.pixel row col = false) ∧ t.keys = 0#16 ∧ t.mode = .running ∧ t.waitX = 0 ∧ t.kprev = 0#16 ∧
    t.cfg = s.cfg ∧ t.draws = s.draws

/-- O56. load_rom writes the image and PC, or raises MemoryOutOfBounds and changes nothing.
R243, R203. The first test, PC and the refusal are the spec's decision D24 (log 24); that `isFresh` is equality with
the reset state, not a history, is the model's choice (log 35, DESIGN CHOICE). -/
def Obligations.LoadRomRule : Prop :=
  (∀ (s : State) (bytes : List Byte) (addr : Nat), s.isFresh = true →
    (0x200 ≤ addr → addr ≤ 0xFFF → bytes.length ≤ 0x1000 - addr → ∃ t, transact s (.loadRom bytes addr) = .ok (t, .ok) ∧
      (∀ k b, bytes[k]? = some b → t.peek (addr + k) = b) ∧ SameMemoryOutside addr bytes.length s t ∧
      t.pc.toNat = addr ∧ SameRegs s t ∧ t.i = s.i ∧ SameScreen s t ∧ SameRest s t) ∧
    (addr < 0x200 ∨ 0xFFF < addr ∨ 0x1000 - addr < bytes.length →
      transact s (.loadRom bytes addr) = .ok (s, .error .memoryOutOfBounds))) ∧
  (∀ (s : State) (bytes : List Byte) (addr : Nat), s.isFresh = false →
    transact s (.loadRom bytes addr) = .error .loadAfterBoot)

/-- O57. After boot memory is the font, the image, and zero.
R245, R244, R243, R240. PC = `addr` is the spec's decision D24 (log 24, DESIGN CHOICE); Running and SP = 0 are D22
(log 2, DESIGN CHOICE). -/
def Obligations.MemoryAfterBoot : Prop :=
  ∀ (cfg : Config) (bytes : List Byte) (addr : Nat) (s : State), boot cfg bytes addr = .ok s →
    (∀ k : Fin 80, s.peek (0x50 + k.val) = cfg.fontTable[k.val]) ∧
    (∀ k b, bytes[k]? = some b → s.peek (addr + k) = b) ∧
    (∀ a, a ≤ 0xFFF → a < 0x50 ∨ 0x9F < a → a < addr ∨ addr + bytes.length ≤ a → s.peek a = 0x00#8) ∧
    s.pc.toNat = addr ∧ s.mode = .running ∧ s.sp = 0

/-- O58. set_key writes the one key bit it names, and is no move outside 0 to 15.
R210. The refusal is the model's form of D23 (log 25). -/
def Obligations.SetKeyRule : Prop :=
  ∀ (s : State) (k : Nat) (pressed : Bool),
    (k < 16 → ∃ t, transact s (.setKey k pressed) = .ok (t, .ok) ∧
      (∀ j : Key, t.keys.getLsbD j.val = if j.val = k then pressed else s.keys.getLsbD j.val) ∧
      SameRegs s t ∧ t.pc = s.pc ∧ t.i = s.i ∧ SameMemory s t ∧ SameScreen s t ∧ SameStack s t ∧ SameTimers s t ∧
      SameWait s t ∧ t.cfg = s.cfg ∧ t.draws = s.draws) ∧
    (16 ≤ k → transact s (.setKey k pressed) = .error .keyIndex)

/-- O59. The two host reads return the grid and the sound level and change nothing.
R211, R212. The layout is the spec's decision D32 (log 30). -/
def Obligations.HostReadRules : Prop :=
  ∀ s : State,
    (∃ rows, transact s .framebufferSnapshot = .ok (s, .snapshot rows) ∧ rows.length = 32 ∧
      (∀ row ∈ rows, row.length = 64) ∧
      ∀ (r : Fin 32) (q : Fin 64), rows[r.val]?.bind (fun row => row[q.val]?) = some (s.fb.pixel r q)) ∧
    (∃ b, transact s .soundActive = .ok (s, .sound b) ∧ (b = true ↔ s.st ≠ 0#8))

/-- O60. From the self-jump on every step succeeds and only the timers and keys can change.
R246, R101. The definition of the end is D27 (log 34). -/
def Obligations.EndedRunStaysEnded : Prop :=
  ∀ s : State, s.ended = true →
    step s = .next s ∧
    ∀ (ts : List Transaction) (s' : State) (rs : List Response), (∀ t ∈ ts, t.isRunning = true) →
      transactAll s ts = .ok (s', rs) → s'.ended = true ∧ s' = { s with dt := s'.dt, st := s'.st, keys := s'.keys }
end

