-- ==== Sys2Proof/Laws/Decode.lean ====
section
/-!
SUPPORT. Decode: the fields of R71 and the formats of R72 as numbers, the fields read back from the formats, and the
two bytes of a word.
-/

namespace Sys2Proof

theorem toNat_append_eq {n m : Nat} (a : BitVec n) (b : BitVec m) : (a ++ b).toNat = a.toNat * 2 ^ m + b.toNat := by
  rw [BitVec.toNat_append, ← Nat.shiftLeft_add_eq_or_of_lt b.isLt, Nat.shiftLeft_eq]

@[simp] theorem regBits_toNat (x : Reg) : (regBits x).toNat = x.val := by simp [regBits]

/-! ### The formats as numbers -/

theorem formatA_toNat (t : BitVec 4) (nnn : BitVec 12) : (formatA t nnn).toNat = t.toNat * 4096 + nnn.toNat :=
  toNat_append_eq t nnn

theorem formatXI_toNat (t : BitVec 4) (x : Reg) (nn : Byte) :
    (formatXI t x nn).toNat = t.toNat * 4096 + x.val * 256 + nn.toNat := by
  have h := toNat_append_eq (t ++ regBits x) nn
  have h' := toNat_append_eq t (regBits x)
  have e : (formatXI t x nn).toNat = ((t ++ regBits x) ++ nn).toNat := rfl
  rw [regBits_toNat] at h'
  omega

theorem formatX_toNat (t : BitVec 4) (x : Reg) (kk : Byte) :
    (formatX t x kk).toNat = t.toNat * 4096 + x.val * 256 + kk.toNat := formatXI_toNat t x kk

theorem formatXY_toNat (t : BitVec 4) (x y : Reg) (k : BitVec 4) :
    (formatXY t x y k).toNat = t.toNat * 4096 + x.val * 256 + y.val * 16 + k.toNat := by
  have h := toNat_append_eq ((t ++ regBits x) ++ regBits y) k
  have h' := toNat_append_eq (t ++ regBits x) (regBits y)
  have h'' := toNat_append_eq t (regBits x)
  have e : (formatXY t x y k).toNat = (((t ++ regBits x) ++ regBits y) ++ k).toNat := rfl
  rw [regBits_toNat] at h' h''
  omega

/-! ### The fields as numbers -/

theorem opTop_toNat (op : Word) : (opTop op).toNat = op.toNat / 4096 := by
  have := op.isLt
  simp [opTop, Nat.shiftRight_eq_div_pow]; omega

theorem opX_val (op : Word) : (opX op).val = op.toNat / 256 % 16 := by simp [opX, Nat.shiftRight_eq_div_pow]

theorem opY_val (op : Word) : (opY op).val = op.toNat / 16 % 16 := by simp [opY, Nat.shiftRight_eq_div_pow]

theorem opN_toNat (op : Word) : (opN op).toNat = op.toNat % 16 := by simp [opN]

theorem opNN_toNat (op : Word) : (opNN op).toNat = op.toNat % 256 := by simp [opNN]

theorem opNNN_toNat (op : Word) : (opNNN op).toNat = op.toNat % 4096 := by simp [opNNN]

/-! ### Fields read back from formats -/

section
variable (t : BitVec 4) (x y : Reg) (k : BitVec 4) (nn : Byte) (nnn : BitVec 12)

@[simp] theorem opTop_formatA : opTop (formatA t nnn) = t := by
  apply BitVec.eq_of_toNat_eq; rw [opTop_toNat, formatA_toNat]; omega

@[simp] theorem opNNN_formatA : opNNN (formatA t nnn) = nnn := by
  apply BitVec.eq_of_toNat_eq; rw [opNNN_toNat, formatA_toNat]; omega

@[simp] theorem opTop_formatXI : opTop (formatXI t x nn) = t := by
  apply BitVec.eq_of_toNat_eq; rw [opTop_toNat, formatXI_toNat]; omega

@[simp] theorem opX_formatXI : opX (formatXI t x nn) = x := by
  apply Fin.ext; rw [opX_val, formatXI_toNat]; omega

@[simp] theorem opNN_formatXI : opNN (formatXI t x nn) = nn := by
  apply BitVec.eq_of_toNat_eq; rw [opNN_toNat, formatXI_toNat]; omega

@[simp] theorem opTop_formatX : opTop (formatX t x nn) = t := opTop_formatXI t x nn

@[simp] theorem opX_formatX : opX (formatX t x nn) = x := opX_formatXI t x nn

@[simp] theorem opNN_formatX : opNN (formatX t x nn) = nn := opNN_formatXI t x nn

@[simp] theorem opTop_formatXY : opTop (formatXY t x y k) = t := by
  apply BitVec.eq_of_toNat_eq; rw [opTop_toNat, formatXY_toNat]; omega

@[simp] theorem opX_formatXY : opX (formatXY t x y k) = x := by
  apply Fin.ext; rw [opX_val, formatXY_toNat]; omega

@[simp] theorem opY_formatXY : opY (formatXY t x y k) = y := by
  apply Fin.ext; rw [opY_val, formatXY_toNat]; omega

@[simp] theorem opN_formatXY : opN (formatXY t x y k) = k := by
  apply BitVec.eq_of_toNat_eq; rw [opN_toNat, formatXY_toNat]; omega

end

/-! ### A word is its fields put together -/

theorem formatA_fields (op : Word) : formatA (opTop op) (opNNN op) = op := by
  apply BitVec.eq_of_toNat_eq; rw [formatA_toNat, opTop_toNat, opNNN_toNat]; omega

theorem formatXI_fields (op : Word) : formatXI (opTop op) (opX op) (opNN op) = op := by
  apply BitVec.eq_of_toNat_eq; rw [formatXI_toNat, opTop_toNat, opNN_toNat, opX_val]; omega

theorem formatX_fields (op : Word) : formatX (opTop op) (opX op) (opNN op) = op := formatXI_fields op

theorem formatXY_fields (op : Word) : formatXY (opTop op) (opX op) (opY op) (opN op) = op := by
  apply BitVec.eq_of_toNat_eq; rw [formatXY_toNat, opTop_toNat, opN_toNat, opX_val, opY_val]; omega

/-- The last arm of `decodeWord` is the family `Fxnn`. -/
theorem top_is_F {t : BitVec 4} (h0 : t ≠ 0x0#4) (h1 : t ≠ 0x1#4) (h2 : t ≠ 0x2#4) (h3 : t ≠ 0x3#4) (h4 : t ≠ 0x4#4)
    (h5 : t ≠ 0x5#4) (h6 : t ≠ 0x6#4) (h7 : t ≠ 0x7#4) (h8 : t ≠ 0x8#4) (h9 : t ≠ 0x9#4) (hA : t ≠ 0xA#4)
    (hB : t ≠ 0xB#4) (hC : t ≠ 0xC#4) (hD : t ≠ 0xD#4) (hE : t ≠ 0xE#4) : t = 0xF#4 := by
  obtain ⟨⟨n, hn⟩⟩ := t
  interval_cases n <;> simp_all

/-! ### The bytes of a word -/

theorem wordOfBytes_toNat (hi lo : Byte) : (wordOfBytes hi lo).toNat = hi.toNat * 256 + lo.toNat :=
  toNat_append_eq hi lo

theorem highByte_toNat (op : Word) : (highByte op).toNat = op.toNat / 256 := by
  have := op.isLt
  simp [highByte, Nat.shiftRight_eq_div_pow]; omega

theorem lowByte_toNat (op : Word) : (lowByte op).toNat = op.toNat % 256 := by simp [lowByte]

@[simp] theorem wordOfBytes_high_low (op : Word) : wordOfBytes (highByte op) (lowByte op) = op := by
  apply BitVec.eq_of_toNat_eq
  rw [wordOfBytes_toNat, highByte_toNat, lowByte_toNat]; omega

@[simp] theorem highByte_wordOfBytes (hi lo : Byte) : highByte (wordOfBytes hi lo) = hi := by
  apply BitVec.eq_of_toNat_eq; rw [highByte_toNat, wordOfBytes_toNat]; omega

@[simp] theorem lowByte_wordOfBytes (hi lo : Byte) : lowByte (wordOfBytes hi lo) = lo := by
  apply BitVec.eq_of_toNat_eq; rw [lowByte_toNat, wordOfBytes_toNat]; omega

end Sys2Proof
end

