-- ==== Sys2Proof/Laws/Memory.lean ====
section
/-!
SUPPORT. Memory: reads after writes, and that every memory operation keeps the canonical form.
-/

namespace Sys2Proof.Machine

variable {bg : Nat → Byte}

theorem Memory.read_entry_append (a : Nat) (b : Byte) (m : Memory) (x : Nat) (hb : Memory.read bg m a = bg a) :
    Memory.read bg (Memory.entry bg a b ++ m) x = if x = a then b else Memory.read bg m x := by
  unfold Memory.entry
  by_cases h : b = bg a
  · by_cases hx : x = a <;> simp [h, hx, hb]
  · simp [h, Memory.read]

theorem Memory.wfFrom_mono {lo hi : Nat} (h : lo ≤ hi) {m : Memory} (hm : Memory.wfFrom bg hi m = true) :
    Memory.wfFrom bg lo m = true := by
  cases m with
  | nil => rfl
  | cons c m =>
    simp only [Memory.wfFrom, Bool.and_eq_true, decide_eq_true_eq] at hm ⊢
    exact ⟨⟨⟨h.trans hm.1.1.1, hm.1.1.2⟩, hm.1.2⟩, hm.2⟩

/-- An address below every listed one reads as unlisted. -/
theorem Memory.read_below {lo : Nat} {m : Memory} (hm : Memory.wfFrom bg lo m = true) {a : Nat} (ha : a < lo) :
    Memory.read bg m a = bg a := by
  induction m generalizing lo with
  | nil => rfl
  | cons c m ih =>
    simp only [Memory.wfFrom, Bool.and_eq_true, decide_eq_true_eq] at hm
    have hne : a ≠ c.1 := by omega
    simp only [Memory.read, hne, if_false]
    exact ih hm.2 (by omega)

/-- Everything a write can do to a read. -/
theorem Memory.read_write {lo : Nat} {m : Memory} (hm : Memory.wfFrom bg lo m = true) (a : Nat) (b : Byte) (x : Nat) :
    Memory.read bg (Memory.write bg m a b) x = if x = a then b else Memory.read bg m x := by
  induction m generalizing lo with
  | nil => simpa [Memory.write] using Memory.read_entry_append (bg := bg) a b [] x rfl
  | cons c m ih =>
    have hc := hm
    simp only [Memory.wfFrom, Bool.and_eq_true, decide_eq_true_eq] at hm
    simp only [Memory.write]
    split
    · next hlt =>
      refine Memory.read_entry_append a b _ x ?_
      have hne : a ≠ c.1 := by omega
      simp only [Memory.read, hne, if_false]
      exact Memory.read_below hm.2 (by omega)
    · next hge =>
      split
      · next heq =>
        subst heq
        rw [Memory.read_entry_append _ b m x (Memory.read_below hm.2 (by omega))]
        by_cases hx : x = c.1 <;> simp [hx, Memory.read]
      · next hne =>
        simp only [Memory.read]
        by_cases hx : x = c.1
        · have : x ≠ a := by omega
          simp [hx]
          intro h; omega
        · simp only [hx, if_false]
          exact ih hm.2

theorem Memory.wfFrom_entry_append {lo : Nat} {m : Memory} {a : Nat} {b : Byte} (hlo : lo ≤ a) (ha : a < 0x1000)
    (hm : Memory.wfFrom bg (a + 1) m = true) : Memory.wfFrom bg lo (Memory.entry bg a b ++ m) = true := by
  unfold Memory.entry
  split
  · exact Memory.wfFrom_mono (by omega) hm
  · next h => simp [Memory.wfFrom, hlo, ha, h, hm]

/-- A write inside the address space keeps the canonical form. -/
theorem Memory.wfFrom_write {lo : Nat} {m : Memory} (hm : Memory.wfFrom bg lo m = true) {a : Nat} (b : Byte)
    (hlo : lo ≤ a) (ha : a < 0x1000) : Memory.wfFrom bg lo (Memory.write bg m a b) = true := by
  induction m generalizing lo with
  | nil => simpa [Memory.write] using Memory.wfFrom_entry_append (m := []) hlo ha rfl
  | cons c m ih =>
    have hc := hm
    simp only [Memory.wfFrom, Bool.and_eq_true, decide_eq_true_eq] at hm
    simp only [Memory.write]
    split
    · next hlt =>
      refine Memory.wfFrom_entry_append hlo ha ?_
      simp only [Memory.wfFrom, Bool.and_eq_true, decide_eq_true_eq]
      exact ⟨⟨⟨by omega, hm.1.1.2⟩, hm.1.2⟩, hm.2⟩
    · next hge =>
      split
      · next heq => subst heq; exact Memory.wfFrom_entry_append hlo ha hm.2
      · next hne =>
        simp only [Memory.wfFrom, Bool.and_eq_true, decide_eq_true_eq]
        exact ⟨hm.1, ih hm.2 (by omega)⟩

theorem Memory.wf_write {m : Memory} (hm : Memory.wf bg m = true) {a : Nat} (b : Byte) (ha : a < 0x1000) :
    Memory.wf bg (Memory.write bg m a b) = true :=
  Memory.wfFrom_write hm b (Nat.zero_le a) ha

/-- Bytes stored inside the address space keep the canonical form. -/
theorem Memory.wf_writeBytes {m : Memory} (hm : Memory.wf bg m = true) (a : Nat) (bs : List Byte)
    (h : a + bs.length ≤ 0x1000) : Memory.wf bg (Memory.writeBytes bg m a bs) = true := by
  induction bs generalizing m a with
  | nil => exact hm
  | cons b bs ih =>
    simp only [List.length_cons] at h
    exact ih (Memory.wf_write hm b (by omega)) (a + 1) (by omega)

/-- Everything a multi-byte store can do to a read: the stored bytes at their addresses, every other address as
before. -/
theorem Memory.read_writeBytes {m : Memory} (hm : Memory.wf bg m = true) (a : Nat) (bs : List Byte)
    (h : a + bs.length ≤ 0x1000) (x : Nat) :
    Memory.read bg (Memory.writeBytes bg m a bs) x =
      if hx : a ≤ x ∧ x - a < bs.length then bs[x - a]'hx.2 else Memory.read bg m x := by
  induction bs generalizing m a with
  | nil => simp [Memory.writeBytes]
  | cons b bs ih =>
    simp only [List.length_cons] at h
    simp only [Memory.writeBytes]
    rw [ih (Memory.wf_write hm b (by omega)) (a + 1) (by omega), Memory.read_write hm]
    by_cases hxa : x = a
    · subst hxa; simp
    · rw [if_neg hxa]
      by_cases hx : a + 1 ≤ x ∧ x - (a + 1) < bs.length
      · have h1 : a ≤ x ∧ x - a < (b :: bs).length := by rw [List.length_cons]; omega
        have h2 : x - a = x - (a + 1) + 1 := by omega
        rw [dif_pos hx, dif_pos h1]
        simp only [h2, List.getElem_cons_succ]
      · have h1 : ¬ (a ≤ x ∧ x - a < (b :: bs).length) := by rw [List.length_cons]; omega
        rw [dif_neg hx, dif_neg h1]

end Sys2Proof.Machine
end

