-- ==== Sys2Proof/Laws/State.lean ====
section
/-!
SUPPORT. State: what each update of the state leaves in each field, so that no proof unfolds a record update.
-/

namespace Sys2Proof.Machine

variable (s : State)

@[simp] theorem State.setReg_v (r : Reg) (b : Byte) : (s.setReg r b).v = s.v.set r.val b := rfl
@[simp] theorem State.setReg_i (r : Reg) (b : Byte) : (s.setReg r b).i = s.i := rfl
@[simp] theorem State.setReg_pc (r : Reg) (b : Byte) : (s.setReg r b).pc = s.pc := rfl
@[simp] theorem State.setReg_sp (r : Reg) (b : Byte) : (s.setReg r b).sp = s.sp := rfl
@[simp] theorem State.setReg_stack (r : Reg) (b : Byte) : (s.setReg r b).stack = s.stack := rfl
@[simp] theorem State.setReg_dt (r : Reg) (b : Byte) : (s.setReg r b).dt = s.dt := rfl
@[simp] theorem State.setReg_st (r : Reg) (b : Byte) : (s.setReg r b).st = s.st := rfl
@[simp] theorem State.setReg_fb (r : Reg) (b : Byte) : (s.setReg r b).fb = s.fb := rfl
@[simp] theorem State.setReg_keys (r : Reg) (b : Byte) : (s.setReg r b).keys = s.keys := rfl
@[simp] theorem State.setReg_mode (r : Reg) (b : Byte) : (s.setReg r b).mode = s.mode := rfl
@[simp] theorem State.setReg_waitX (r : Reg) (b : Byte) : (s.setReg r b).waitX = s.waitX := rfl
@[simp] theorem State.setReg_kprev (r : Reg) (b : Byte) : (s.setReg r b).kprev = s.kprev := rfl
@[simp] theorem State.setReg_mem (r : Reg) (b : Byte) : (s.setReg r b).mem = s.mem := rfl
@[simp] theorem State.setReg_cfg (r : Reg) (b : Byte) : (s.setReg r b).cfg = s.cfg := rfl
@[simp] theorem State.setReg_draws (r : Reg) (b : Byte) : (s.setReg r b).draws = s.draws := rfl

@[simp] theorem State.jump_v (w : Word) : (s.jump w).v = s.v := rfl
@[simp] theorem State.jump_i (w : Word) : (s.jump w).i = s.i := rfl
@[simp] theorem State.jump_pc (w : Word) : (s.jump w).pc = w := rfl
@[simp] theorem State.jump_sp (w : Word) : (s.jump w).sp = s.sp := rfl
@[simp] theorem State.jump_stack (w : Word) : (s.jump w).stack = s.stack := rfl
@[simp] theorem State.jump_dt (w : Word) : (s.jump w).dt = s.dt := rfl
@[simp] theorem State.jump_st (w : Word) : (s.jump w).st = s.st := rfl
@[simp] theorem State.jump_fb (w : Word) : (s.jump w).fb = s.fb := rfl
@[simp] theorem State.jump_keys (w : Word) : (s.jump w).keys = s.keys := rfl
@[simp] theorem State.jump_mode (w : Word) : (s.jump w).mode = s.mode := rfl
@[simp] theorem State.jump_waitX (w : Word) : (s.jump w).waitX = s.waitX := rfl
@[simp] theorem State.jump_kprev (w : Word) : (s.jump w).kprev = s.kprev := rfl
@[simp] theorem State.jump_mem (w : Word) : (s.jump w).mem = s.mem := rfl
@[simp] theorem State.jump_cfg (w : Word) : (s.jump w).cfg = s.cfg := rfl
@[simp] theorem State.jump_draws (w : Word) : (s.jump w).draws = s.draws := rfl

@[simp] theorem State.advance_v : (s.advance).v = s.v := rfl
@[simp] theorem State.advance_i : (s.advance).i = s.i := rfl
@[simp] theorem State.advance_pc : (s.advance).pc = s.pc + 2#16 := rfl
@[simp] theorem State.advance_sp : (s.advance).sp = s.sp := rfl
@[simp] theorem State.advance_stack : (s.advance).stack = s.stack := rfl
@[simp] theorem State.advance_dt : (s.advance).dt = s.dt := rfl
@[simp] theorem State.advance_st : (s.advance).st = s.st := rfl
@[simp] theorem State.advance_fb : (s.advance).fb = s.fb := rfl
@[simp] theorem State.advance_keys : (s.advance).keys = s.keys := rfl
@[simp] theorem State.advance_mode : (s.advance).mode = s.mode := rfl
@[simp] theorem State.advance_waitX : (s.advance).waitX = s.waitX := rfl
@[simp] theorem State.advance_kprev : (s.advance).kprev = s.kprev := rfl
@[simp] theorem State.advance_mem : (s.advance).mem = s.mem := rfl
@[simp] theorem State.advance_cfg : (s.advance).cfg = s.cfg := rfl
@[simp] theorem State.advance_draws : (s.advance).draws = s.draws := rfl

@[simp] theorem State.skipIf_v (c : Bool) : (s.skipIf c).v = s.v := rfl
@[simp] theorem State.skipIf_i (c : Bool) : (s.skipIf c).i = s.i := rfl
@[simp] theorem State.skipIf_pc (c : Bool) : (s.skipIf c).pc = if c then s.pc + 4#16 else s.pc + 2#16 := rfl
@[simp] theorem State.skipIf_sp (c : Bool) : (s.skipIf c).sp = s.sp := rfl
@[simp] theorem State.skipIf_stack (c : Bool) : (s.skipIf c).stack = s.stack := rfl
@[simp] theorem State.skipIf_dt (c : Bool) : (s.skipIf c).dt = s.dt := rfl
@[simp] theorem State.skipIf_st (c : Bool) : (s.skipIf c).st = s.st := rfl
@[simp] theorem State.skipIf_fb (c : Bool) : (s.skipIf c).fb = s.fb := rfl
@[simp] theorem State.skipIf_keys (c : Bool) : (s.skipIf c).keys = s.keys := rfl
@[simp] theorem State.skipIf_mode (c : Bool) : (s.skipIf c).mode = s.mode := rfl
@[simp] theorem State.skipIf_waitX (c : Bool) : (s.skipIf c).waitX = s.waitX := rfl
@[simp] theorem State.skipIf_kprev (c : Bool) : (s.skipIf c).kprev = s.kprev := rfl
@[simp] theorem State.skipIf_mem (c : Bool) : (s.skipIf c).mem = s.mem := rfl
@[simp] theorem State.skipIf_cfg (c : Bool) : (s.skipIf c).cfg = s.cfg := rfl
@[simp] theorem State.skipIf_draws (c : Bool) : (s.skipIf c).draws = s.draws := rfl

@[simp] theorem State.setIndex_v (w : Word) : (s.setIndex w).v = s.v := rfl
@[simp] theorem State.setIndex_i (w : Word) : (s.setIndex w).i = w := rfl
@[simp] theorem State.setIndex_pc (w : Word) : (s.setIndex w).pc = s.pc := rfl
@[simp] theorem State.setIndex_sp (w : Word) : (s.setIndex w).sp = s.sp := rfl
@[simp] theorem State.setIndex_stack (w : Word) : (s.setIndex w).stack = s.stack := rfl
@[simp] theorem State.setIndex_dt (w : Word) : (s.setIndex w).dt = s.dt := rfl
@[simp] theorem State.setIndex_st (w : Word) : (s.setIndex w).st = s.st := rfl
@[simp] theorem State.setIndex_fb (w : Word) : (s.setIndex w).fb = s.fb := rfl
@[simp] theorem State.setIndex_keys (w : Word) : (s.setIndex w).keys = s.keys := rfl
@[simp] theorem State.setIndex_mode (w : Word) : (s.setIndex w).mode = s.mode := rfl
@[simp] theorem State.setIndex_waitX (w : Word) : (s.setIndex w).waitX = s.waitX := rfl
@[simp] theorem State.setIndex_kprev (w : Word) : (s.setIndex w).kprev = s.kprev := rfl
@[simp] theorem State.setIndex_mem (w : Word) : (s.setIndex w).mem = s.mem := rfl
@[simp] theorem State.setIndex_cfg (w : Word) : (s.setIndex w).cfg = s.cfg := rfl
@[simp] theorem State.setIndex_draws (w : Word) : (s.setIndex w).draws = s.draws := rfl

@[simp] theorem State.setDelay_v (b : Byte) : (s.setDelay b).v = s.v := rfl
@[simp] theorem State.setDelay_i (b : Byte) : (s.setDelay b).i = s.i := rfl
@[simp] theorem State.setDelay_pc (b : Byte) : (s.setDelay b).pc = s.pc := rfl
@[simp] theorem State.setDelay_sp (b : Byte) : (s.setDelay b).sp = s.sp := rfl
@[simp] theorem State.setDelay_stack (b : Byte) : (s.setDelay b).stack = s.stack := rfl
@[simp] theorem State.setDelay_dt (b : Byte) : (s.setDelay b).dt = b := rfl
@[simp] theorem State.setDelay_st (b : Byte) : (s.setDelay b).st = s.st := rfl
@[simp] theorem State.setDelay_fb (b : Byte) : (s.setDelay b).fb = s.fb := rfl
@[simp] theorem State.setDelay_keys (b : Byte) : (s.setDelay b).keys = s.keys := rfl
@[simp] theorem State.setDelay_mode (b : Byte) : (s.setDelay b).mode = s.mode := rfl
@[simp] theorem State.setDelay_waitX (b : Byte) : (s.setDelay b).waitX = s.waitX := rfl
@[simp] theorem State.setDelay_kprev (b : Byte) : (s.setDelay b).kprev = s.kprev := rfl
@[simp] theorem State.setDelay_mem (b : Byte) : (s.setDelay b).mem = s.mem := rfl
@[simp] theorem State.setDelay_cfg (b : Byte) : (s.setDelay b).cfg = s.cfg := rfl
@[simp] theorem State.setDelay_draws (b : Byte) : (s.setDelay b).draws = s.draws := rfl

@[simp] theorem State.setSound_v (b : Byte) : (s.setSound b).v = s.v := rfl
@[simp] theorem State.setSound_i (b : Byte) : (s.setSound b).i = s.i := rfl
@[simp] theorem State.setSound_pc (b : Byte) : (s.setSound b).pc = s.pc := rfl
@[simp] theorem State.setSound_sp (b : Byte) : (s.setSound b).sp = s.sp := rfl
@[simp] theorem State.setSound_stack (b : Byte) : (s.setSound b).stack = s.stack := rfl
@[simp] theorem State.setSound_dt (b : Byte) : (s.setSound b).dt = s.dt := rfl
@[simp] theorem State.setSound_st (b : Byte) : (s.setSound b).st = b := rfl
@[simp] theorem State.setSound_fb (b : Byte) : (s.setSound b).fb = s.fb := rfl
@[simp] theorem State.setSound_keys (b : Byte) : (s.setSound b).keys = s.keys := rfl
@[simp] theorem State.setSound_mode (b : Byte) : (s.setSound b).mode = s.mode := rfl
@[simp] theorem State.setSound_waitX (b : Byte) : (s.setSound b).waitX = s.waitX := rfl
@[simp] theorem State.setSound_kprev (b : Byte) : (s.setSound b).kprev = s.kprev := rfl
@[simp] theorem State.setSound_mem (b : Byte) : (s.setSound b).mem = s.mem := rfl
@[simp] theorem State.setSound_cfg (b : Byte) : (s.setSound b).cfg = s.cfg := rfl
@[simp] theorem State.setSound_draws (b : Byte) : (s.setSound b).draws = s.draws := rfl

@[simp] theorem State.setScreen_v (fb : Framebuffer) : (s.setScreen fb).v = s.v := rfl
@[simp] theorem State.setScreen_i (fb : Framebuffer) : (s.setScreen fb).i = s.i := rfl
@[simp] theorem State.setScreen_pc (fb : Framebuffer) : (s.setScreen fb).pc = s.pc := rfl
@[simp] theorem State.setScreen_sp (fb : Framebuffer) : (s.setScreen fb).sp = s.sp := rfl
@[simp] theorem State.setScreen_stack (fb : Framebuffer) : (s.setScreen fb).stack = s.stack := rfl
@[simp] theorem State.setScreen_dt (fb : Framebuffer) : (s.setScreen fb).dt = s.dt := rfl
@[simp] theorem State.setScreen_st (fb : Framebuffer) : (s.setScreen fb).st = s.st := rfl
@[simp] theorem State.setScreen_fb (fb : Framebuffer) : (s.setScreen fb).fb = fb := rfl
@[simp] theorem State.setScreen_keys (fb : Framebuffer) : (s.setScreen fb).keys = s.keys := rfl
@[simp] theorem State.setScreen_mode (fb : Framebuffer) : (s.setScreen fb).mode = s.mode := rfl
@[simp] theorem State.setScreen_waitX (fb : Framebuffer) : (s.setScreen fb).waitX = s.waitX := rfl
@[simp] theorem State.setScreen_kprev (fb : Framebuffer) : (s.setScreen fb).kprev = s.kprev := rfl
@[simp] theorem State.setScreen_mem (fb : Framebuffer) : (s.setScreen fb).mem = s.mem := rfl
@[simp] theorem State.setScreen_cfg (fb : Framebuffer) : (s.setScreen fb).cfg = s.cfg := rfl
@[simp] theorem State.setScreen_draws (fb : Framebuffer) : (s.setScreen fb).draws = s.draws := rfl

@[simp] theorem State.pokeBytes_v (a : Nat) (bs : List Byte) : (s.pokeBytes a bs).v = s.v := rfl
@[simp] theorem State.pokeBytes_i (a : Nat) (bs : List Byte) : (s.pokeBytes a bs).i = s.i := rfl
@[simp] theorem State.pokeBytes_pc (a : Nat) (bs : List Byte) : (s.pokeBytes a bs).pc = s.pc := rfl
@[simp] theorem State.pokeBytes_sp (a : Nat) (bs : List Byte) : (s.pokeBytes a bs).sp = s.sp := rfl
@[simp] theorem State.pokeBytes_stack (a : Nat) (bs : List Byte) : (s.pokeBytes a bs).stack = s.stack := rfl
@[simp] theorem State.pokeBytes_dt (a : Nat) (bs : List Byte) : (s.pokeBytes a bs).dt = s.dt := rfl
@[simp] theorem State.pokeBytes_st (a : Nat) (bs : List Byte) : (s.pokeBytes a bs).st = s.st := rfl
@[simp] theorem State.pokeBytes_fb (a : Nat) (bs : List Byte) : (s.pokeBytes a bs).fb = s.fb := rfl
@[simp] theorem State.pokeBytes_keys (a : Nat) (bs : List Byte) : (s.pokeBytes a bs).keys = s.keys := rfl
@[simp] theorem State.pokeBytes_mode (a : Nat) (bs : List Byte) : (s.pokeBytes a bs).mode = s.mode := rfl
@[simp] theorem State.pokeBytes_waitX (a : Nat) (bs : List Byte) : (s.pokeBytes a bs).waitX = s.waitX := rfl
@[simp] theorem State.pokeBytes_kprev (a : Nat) (bs : List Byte) : (s.pokeBytes a bs).kprev = s.kprev := rfl
@[simp] theorem State.pokeBytes_mem (a : Nat) (bs : List Byte) : (s.pokeBytes a bs).mem = s.mem.writeBytes s.cfg.resetByte a bs := rfl
@[simp] theorem State.pokeBytes_cfg (a : Nat) (bs : List Byte) : (s.pokeBytes a bs).cfg = s.cfg := rfl
@[simp] theorem State.pokeBytes_draws (a : Nat) (bs : List Byte) : (s.pokeBytes a bs).draws = s.draws := rfl

@[simp] theorem State.setFlag_v (f : Bool) : (s.setFlag f).v = s.v.set Reg.flag.val (flagByte f) := rfl
@[simp] theorem State.setFlag_i (f : Bool) : (s.setFlag f).i = s.i := rfl
@[simp] theorem State.setFlag_pc (f : Bool) : (s.setFlag f).pc = s.pc := rfl
@[simp] theorem State.setFlag_sp (f : Bool) : (s.setFlag f).sp = s.sp := rfl
@[simp] theorem State.setFlag_stack (f : Bool) : (s.setFlag f).stack = s.stack := rfl
@[simp] theorem State.setFlag_dt (f : Bool) : (s.setFlag f).dt = s.dt := rfl
@[simp] theorem State.setFlag_st (f : Bool) : (s.setFlag f).st = s.st := rfl
@[simp] theorem State.setFlag_fb (f : Bool) : (s.setFlag f).fb = s.fb := rfl
@[simp] theorem State.setFlag_keys (f : Bool) : (s.setFlag f).keys = s.keys := rfl
@[simp] theorem State.setFlag_mode (f : Bool) : (s.setFlag f).mode = s.mode := rfl
@[simp] theorem State.setFlag_waitX (f : Bool) : (s.setFlag f).waitX = s.waitX := rfl
@[simp] theorem State.setFlag_kprev (f : Bool) : (s.setFlag f).kprev = s.kprev := rfl
@[simp] theorem State.setFlag_mem (f : Bool) : (s.setFlag f).mem = s.mem := rfl
@[simp] theorem State.setFlag_cfg (f : Bool) : (s.setFlag f).cfg = s.cfg := rfl
@[simp] theorem State.setFlag_draws (f : Bool) : (s.setFlag f).draws = s.draws := rfl

@[simp] theorem State.setResult_v (x : Reg) (r : Byte) (f : Bool) : (s.setResult x r f).v = (s.v.set x.val r).set Reg.flag.val (flagByte f) := rfl
@[simp] theorem State.setResult_i (x : Reg) (r : Byte) (f : Bool) : (s.setResult x r f).i = s.i := rfl
@[simp] theorem State.setResult_pc (x : Reg) (r : Byte) (f : Bool) : (s.setResult x r f).pc = s.pc := rfl
@[simp] theorem State.setResult_sp (x : Reg) (r : Byte) (f : Bool) : (s.setResult x r f).sp = s.sp := rfl
@[simp] theorem State.setResult_stack (x : Reg) (r : Byte) (f : Bool) : (s.setResult x r f).stack = s.stack := rfl
@[simp] theorem State.setResult_dt (x : Reg) (r : Byte) (f : Bool) : (s.setResult x r f).dt = s.dt := rfl
@[simp] theorem State.setResult_st (x : Reg) (r : Byte) (f : Bool) : (s.setResult x r f).st = s.st := rfl
@[simp] theorem State.setResult_fb (x : Reg) (r : Byte) (f : Bool) : (s.setResult x r f).fb = s.fb := rfl
@[simp] theorem State.setResult_keys (x : Reg) (r : Byte) (f : Bool) : (s.setResult x r f).keys = s.keys := rfl
@[simp] theorem State.setResult_mode (x : Reg) (r : Byte) (f : Bool) : (s.setResult x r f).mode = s.mode := rfl
@[simp] theorem State.setResult_waitX (x : Reg) (r : Byte) (f : Bool) : (s.setResult x r f).waitX = s.waitX := rfl
@[simp] theorem State.setResult_kprev (x : Reg) (r : Byte) (f : Bool) : (s.setResult x r f).kprev = s.kprev := rfl
@[simp] theorem State.setResult_mem (x : Reg) (r : Byte) (f : Bool) : (s.setResult x r f).mem = s.mem := rfl
@[simp] theorem State.setResult_cfg (x : Reg) (r : Byte) (f : Bool) : (s.setResult x r f).cfg = s.cfg := rfl
@[simp] theorem State.setResult_draws (x : Reg) (r : Byte) (f : Bool) : (s.setResult x r f).draws = s.draws := rfl

@[simp] theorem State.endWait_v (k : Key) : (s.endWait k).v = s.v.set s.waitX.val (BitVec.ofNat 8 k.val) := rfl
@[simp] theorem State.endWait_i (k : Key) : (s.endWait k).i = s.i := rfl
@[simp] theorem State.endWait_pc (k : Key) : (s.endWait k).pc = s.pc + 2#16 := rfl
@[simp] theorem State.endWait_sp (k : Key) : (s.endWait k).sp = s.sp := rfl
@[simp] theorem State.endWait_stack (k : Key) : (s.endWait k).stack = s.stack := rfl
@[simp] theorem State.endWait_dt (k : Key) : (s.endWait k).dt = s.dt := rfl
@[simp] theorem State.endWait_st (k : Key) : (s.endWait k).st = s.st := rfl
@[simp] theorem State.endWait_fb (k : Key) : (s.endWait k).fb = s.fb := rfl
@[simp] theorem State.endWait_keys (k : Key) : (s.endWait k).keys = s.keys := rfl
@[simp] theorem State.endWait_mode (k : Key) : (s.endWait k).mode = Mode.running := rfl
@[simp] theorem State.endWait_waitX (k : Key) : (s.endWait k).waitX = s.waitX := rfl
@[simp] theorem State.endWait_kprev (k : Key) : (s.endWait k).kprev = s.kprev := rfl
@[simp] theorem State.endWait_mem (k : Key) : (s.endWait k).mem = s.mem := rfl
@[simp] theorem State.endWait_cfg (k : Key) : (s.endWait k).cfg = s.cfg := rfl
@[simp] theorem State.endWait_draws (k : Key) : (s.endWait k).draws = s.draws := rfl

@[simp] theorem State.setKey_v (k : Key) (p : Bool) : (s.setKey k p).v = s.v := rfl
@[simp] theorem State.setKey_i (k : Key) (p : Bool) : (s.setKey k p).i = s.i := rfl
@[simp] theorem State.setKey_pc (k : Key) (p : Bool) : (s.setKey k p).pc = s.pc := rfl
@[simp] theorem State.setKey_sp (k : Key) (p : Bool) : (s.setKey k p).sp = s.sp := rfl
@[simp] theorem State.setKey_stack (k : Key) (p : Bool) : (s.setKey k p).stack = s.stack := rfl
@[simp] theorem State.setKey_dt (k : Key) (p : Bool) : (s.setKey k p).dt = s.dt := rfl
@[simp] theorem State.setKey_st (k : Key) (p : Bool) : (s.setKey k p).st = s.st := rfl
@[simp] theorem State.setKey_fb (k : Key) (p : Bool) : (s.setKey k p).fb = s.fb := rfl
@[simp] theorem State.setKey_keys (k : Key) (p : Bool) : (s.setKey k p).keys = if p then s.keys ||| (1#16 <<< k.val) else s.keys &&& ~~~(1#16 <<< k.val) := rfl
@[simp] theorem State.setKey_mode (k : Key) (p : Bool) : (s.setKey k p).mode = s.mode := rfl
@[simp] theorem State.setKey_waitX (k : Key) (p : Bool) : (s.setKey k p).waitX = s.waitX := rfl
@[simp] theorem State.setKey_kprev (k : Key) (p : Bool) : (s.setKey k p).kprev = s.kprev := rfl
@[simp] theorem State.setKey_mem (k : Key) (p : Bool) : (s.setKey k p).mem = s.mem := rfl
@[simp] theorem State.setKey_cfg (k : Key) (p : Bool) : (s.setKey k p).cfg = s.cfg := rfl
@[simp] theorem State.setKey_draws (k : Key) (p : Bool) : (s.setKey k p).draws = s.draws := rfl

@[simp] theorem State.tickTimers_v : (s.tickTimers).v = s.v := rfl
@[simp] theorem State.tickTimers_i : (s.tickTimers).i = s.i := rfl
@[simp] theorem State.tickTimers_pc : (s.tickTimers).pc = s.pc := rfl
@[simp] theorem State.tickTimers_sp : (s.tickTimers).sp = s.sp := rfl
@[simp] theorem State.tickTimers_stack : (s.tickTimers).stack = s.stack := rfl
@[simp] theorem State.tickTimers_dt : (s.tickTimers).dt = tickDown s.dt := rfl
@[simp] theorem State.tickTimers_st : (s.tickTimers).st = tickDown s.st := rfl
@[simp] theorem State.tickTimers_fb : (s.tickTimers).fb = s.fb := rfl
@[simp] theorem State.tickTimers_keys : (s.tickTimers).keys = s.keys := rfl
@[simp] theorem State.tickTimers_mode : (s.tickTimers).mode = s.mode := rfl
@[simp] theorem State.tickTimers_waitX : (s.tickTimers).waitX = s.waitX := rfl
@[simp] theorem State.tickTimers_kprev : (s.tickTimers).kprev = s.kprev := rfl
@[simp] theorem State.tickTimers_mem : (s.tickTimers).mem = s.mem := rfl
@[simp] theorem State.tickTimers_cfg : (s.tickTimers).cfg = s.cfg := rfl
@[simp] theorem State.tickTimers_draws : (s.tickTimers).draws = s.draws := rfl

/-! ### Reading back through an update -/

@[simp] theorem State.reg_setReg_same (r : Reg) (b : Byte) : (s.setReg r b).reg r = b := by
  simp [State.reg]

theorem State.reg_setReg_other {r q : Reg} (b : Byte) (h : q ≠ r) : (s.setReg r b).reg q = s.reg q := by
  have h' : r.val ≠ q.val := fun e => h (Fin.ext e.symm)
  simp [State.reg, h']

theorem State.reg_setReg (r q : Reg) (b : Byte) : (s.setReg r b).reg q = if q = r then b else s.reg q := by
  split
  · next h => subst h; exact s.reg_setReg_same q b
  · next h => exact s.reg_setReg_other b h

theorem State.reg_setFlag (f : Bool) (q : Reg) :
    (s.setFlag f).reg q = if q = Reg.flag then flagByte f else s.reg q :=
  s.reg_setReg Reg.flag q (flagByte f)

theorem State.reg_setResult (x : Reg) (r : Byte) (f : Bool) (q : Reg) :
    (s.setResult x r f).reg q = if q = Reg.flag then flagByte f else if q = x then r else s.reg q := by
  simp [State.setResult, State.reg_setFlag, State.reg_setReg]

@[simp] theorem State.reg_jump (w : Word) (q : Reg) : (s.jump w).reg q = s.reg q := rfl
@[simp] theorem State.reg_advance (q : Reg) : (s.advance).reg q = s.reg q := rfl
@[simp] theorem State.reg_skipIf (c : Bool) (q : Reg) : (s.skipIf c).reg q = s.reg q := rfl
@[simp] theorem State.reg_setIndex (w : Word) (q : Reg) : (s.setIndex w).reg q = s.reg q := rfl
@[simp] theorem State.reg_setDelay (b : Byte) (q : Reg) : (s.setDelay b).reg q = s.reg q := rfl
@[simp] theorem State.reg_setSound (b : Byte) (q : Reg) : (s.setSound b).reg q = s.reg q := rfl
@[simp] theorem State.reg_setScreen (fb : Framebuffer) (q : Reg) : (s.setScreen fb).reg q = s.reg q := rfl
@[simp] theorem State.reg_pokeBytes (a : Nat) (bs : List Byte) (q : Reg) : (s.pokeBytes a bs).reg q = s.reg q := rfl
@[simp] theorem State.reg_setKey (k : Key) (p : Bool) (q : Reg) : (s.setKey k p).reg q = s.reg q := rfl
@[simp] theorem State.reg_tickTimers (q : Reg) : (s.tickTimers).reg q = s.reg q := rfl

@[simp] theorem State.peek_setReg (r : Reg) (b : Byte) (x : Nat) : (s.setReg r b).peek x = s.peek x := rfl
@[simp] theorem State.peek_jump (w : Word) (x : Nat) : (s.jump w).peek x = s.peek x := rfl
@[simp] theorem State.peek_advance (x : Nat) : (s.advance).peek x = s.peek x := rfl
@[simp] theorem State.peek_skipIf (c : Bool) (x : Nat) : (s.skipIf c).peek x = s.peek x := rfl
@[simp] theorem State.peek_setIndex (w : Word) (x : Nat) : (s.setIndex w).peek x = s.peek x := rfl
@[simp] theorem State.peek_setDelay (b : Byte) (x : Nat) : (s.setDelay b).peek x = s.peek x := rfl
@[simp] theorem State.peek_setSound (b : Byte) (x : Nat) : (s.setSound b).peek x = s.peek x := rfl
@[simp] theorem State.peek_setScreen (fb : Framebuffer) (x : Nat) : (s.setScreen fb).peek x = s.peek x := rfl
@[simp] theorem State.peek_setFlag (f : Bool) (x : Nat) : (s.setFlag f).peek x = s.peek x := rfl
@[simp] theorem State.peek_setResult (x : Reg) (r : Byte) (f : Bool) (q : Nat) : (s.setResult x r f).peek q = s.peek q := rfl
@[simp] theorem State.peek_endWait (k : Key) (x : Nat) : (s.endWait k).peek x = s.peek x := rfl
@[simp] theorem State.peek_setKey (k : Key) (p : Bool) (x : Nat) : (s.setKey k p).peek x = s.peek x := rfl
@[simp] theorem State.peek_tickTimers (x : Nat) : (s.tickTimers).peek x = s.peek x := rfl

@[simp] theorem State.drawByte_fst : s.drawByte.1 = Config.drawByte s.draws := rfl
@[simp] theorem State.drawByte_snd : s.drawByte.2 = { s with draws := s.draws + 1 } := rfl

/-! ### The state after reset -/

@[simp] theorem State.resetWith_v (c : Config) (n : Nat) : (State.resetWith c n).v = Vector.replicate 16 0x00#8 := rfl
@[simp] theorem State.resetWith_i (c : Config) (n : Nat) : (State.resetWith c n).i = 0x0000#16 := rfl
@[simp] theorem State.resetWith_pc (c : Config) (n : Nat) : (State.resetWith c n).pc = 0x0200#16 := rfl
@[simp] theorem State.resetWith_sp (c : Config) (n : Nat) : (State.resetWith c n).sp = 0 := rfl
@[simp] theorem State.resetWith_stack (c : Config) (n : Nat) : (State.resetWith c n).stack = Vector.replicate 16 0x0000#16 := rfl
@[simp] theorem State.resetWith_dt (c : Config) (n : Nat) : (State.resetWith c n).dt = 0x00#8 := rfl
@[simp] theorem State.resetWith_st (c : Config) (n : Nat) : (State.resetWith c n).st = 0x00#8 := rfl
@[simp] theorem State.resetWith_fb (c : Config) (n : Nat) : (State.resetWith c n).fb = Framebuffer.blank := rfl
@[simp] theorem State.resetWith_keys (c : Config) (n : Nat) : (State.resetWith c n).keys = 0x0000#16 := rfl
@[simp] theorem State.resetWith_mode (c : Config) (n : Nat) : (State.resetWith c n).mode = Mode.running := rfl
@[simp] theorem State.resetWith_waitX (c : Config) (n : Nat) : (State.resetWith c n).waitX = 0 := rfl
@[simp] theorem State.resetWith_kprev (c : Config) (n : Nat) : (State.resetWith c n).kprev = 0x0000#16 := rfl
@[simp] theorem State.resetWith_mem (c : Config) (n : Nat) : (State.resetWith c n).mem = [] := rfl
@[simp] theorem State.resetWith_cfg (c : Config) (n : Nat) : (State.resetWith c n).cfg = c := rfl
@[simp] theorem State.resetWith_draws (c : Config) (n : Nat) : (State.resetWith c n).draws = n := rfl

end Sys2Proof.Machine
end

