-- ==== Sys2Proof/Laws/Ops.lean ====
section
/-!
SUPPORT. Ops: one lemma for each shared operation that says everything it can do.
-/

namespace Sys2Proof.Machine

variable {s t : State}

/-! ### The call stack -/

theorem State.push_eq_some {w : Word} : s.push w = some t ↔
    ∃ h : s.sp.val < 16, t = { s with stack := s.stack.set s.sp.val w, sp := ⟨s.sp.val + 1, by omega⟩ } := by
  unfold State.push
  split
  · next h => simp [h, eq_comm]
  · next h => simp [h]

theorem State.push_eq_none {w : Word} : s.push w = none ↔ s.sp.val = 16 := by
  unfold State.push
  split <;> simp <;> omega

theorem State.pop_eq_some {w : Word} : s.pop = some (w, t) ↔
    ∃ h : 0 < s.sp.val, w = s.stack[s.sp.val - 1] ∧ t = { s with sp := ⟨s.sp.val - 1, by omega⟩ } := by
  unfold State.pop
  split
  · next h => simp [h, eq_comm]
  · next h => simp [h]

theorem State.pop_eq_none : s.pop = none ↔ s.sp.val = 0 := by
  unfold State.pop
  split <;> simp <;> omega

/-! ### Memory -/

theorem rangeFits_iff {a last : Nat} : rangeFits a last = true ↔ a + last ≤ 0xFFF := by simp [rangeFits]

@[simp] theorem State.length_peekBytes (a n : Nat) : (s.peekBytes a n).length = n := by
  induction n generalizing a with
  | zero => rfl
  | succ n ih => simp [State.peekBytes, ih]

theorem State.getElem_peekBytes (a n k : Nat) (h : k < (s.peekBytes a n).length) :
    (s.peekBytes a n)[k] = s.peek (a + k) := by
  induction n generalizing a k with
  | zero => simp at h
  | succ n ih =>
    cases k with
    | zero => rfl
    | succ k =>
      have h' : k < (s.peekBytes (a + 1) n).length := by simpa using h
      have e : a + 1 + k = a + (k + 1) := by omega
      simpa only [State.peekBytes, List.getElem_cons_succ, e] using ih (a + 1) k h'

/-- What is read depends on memory and the configuration alone. -/
theorem State.peekBytes_congr (mem : t.mem = s.mem) (cfg : t.cfg = s.cfg) (a n : Nat) :
    t.peekBytes a n = s.peekBytes a n := by
  induction n generalizing a with
  | zero => rfl
  | succ n ih => simp only [State.peekBytes, State.peek, mem, cfg, ih]

/-- Reading after a store of bytes inside the address space. -/
theorem State.peek_pokeBytes (wf : s.mem.wf s.cfg.resetByte = true) (a : Nat) (bs : List Byte)
    (h : a + bs.length ≤ 0x1000) (x : Nat) :
    (s.pokeBytes a bs).peek x = if hx : a ≤ x ∧ x - a < bs.length then bs[x - a]'hx.2 else s.peek x :=
  Memory.read_writeBytes wf a bs h x

/-- A store of bytes inside the address space keeps the canonical form. -/
theorem State.wf_pokeBytes (wf : s.mem.wf s.cfg.resetByte = true) (a : Nat) (bs : List Byte)
    (h : a + bs.length ≤ 0x1000) : (s.pokeBytes a bs).mem.wf (s.pokeBytes a bs).cfg.resetByte = true :=
  Memory.wf_writeBytes wf a bs h

@[simp] theorem length_decimalDigits (b : Byte) : (decimalDigits b).length = 3 := rfl

@[simp] theorem State.length_regsTo (x : Reg) : (s.regsTo x).length = x.val + 1 := by
  simp [State.regsTo]

/-! ### The fetch -/

theorem State.fetch_eq_ok {op : Word} : s.fetch = .ok op ↔
    s.pc.toNat ≤ 0xFFE ∧ s.pc.toNat % 2 = 0 ∧ op = s.peekWord s.pc.toNat := by
  have odd : s.pc.getLsbD 0 = decide (s.pc.toNat % 2 = 1) := by simp [BitVec.getLsbD, Nat.testBit_zero]
  unfold State.fetch
  rw [odd]
  split
  · simp; omega
  · next h =>
    split
    · next h' => simp at h'; simp; omega
    · next h' =>
      simp only [decide_eq_true_eq] at h'
      simp only [Except.ok.injEq]
      constructor
      · intro e; exact ⟨by omega, by omega, e.symm⟩
      · intro e; exact e.2.2.symm

theorem State.fetch_eq_error {k : Fault} : s.fetch = .error k ↔
    (k = .memoryOutOfBounds ∧ 0xFFE < s.pc.toNat) ∨
      (k = .misalignedPC ∧ s.pc.toNat ≤ 0xFFE ∧ s.pc.toNat % 2 = 1) := by
  have odd : s.pc.getLsbD 0 = decide (s.pc.toNat % 2 = 1) := by simp [BitVec.getLsbD, Nat.testBit_zero]
  unfold State.fetch
  rw [odd]
  split
  · next h => cases k <;> simp <;> omega
  · next h =>
    split
    · next h' => simp at h'; cases k <;> simp <;> omega
    · next h' => simp at h'; cases k <;> simp <;> omega

/-! ### The key wait -/

theorem leastKey_eq_none {keys : BitVec 16} : leastKey keys = none ↔ keys = 0#16 := by
  unfold leastKey
  rw [List.find?_eq_none]
  constructor
  · intro h
    apply BitVec.eq_of_getLsbD_eq
    intro k hk
    simpa using h ⟨k, hk⟩ (List.mem_finRange _)
  · rintro rfl k -; simp

theorem leastKey_eq_some {keys : BitVec 16} {k : Key} : leastKey keys = some k ↔
    keys.getLsbD k.val = true ∧ ∀ j : Key, j < k → keys.getLsbD j.val = false := by
  unfold leastKey
  rw [List.find?_eq_some_iff_getElem]
  constructor
  · rintro ⟨hk, i, hi, hik, hlt⟩
    have hi' : i < 16 := by simpa using hi
    have : (⟨i, hi'⟩ : Fin 16) = k := by simpa using hik
    subst this
    refine ⟨hk, fun j hj => ?_⟩
    have := hlt j.val hj
    simpa using this
  · rintro ⟨hk, hlt⟩
    refine ⟨hk, k.val, by simp, by simp, fun j hj => ?_⟩
    have := hlt ⟨j, by omega⟩ hj
    simpa using this

end Sys2Proof.Machine
end

