-- ==== Sys2Proof/Laws/PerInstr.lean ====
section
/-!
SUPPORT. PerInstr: the families of statements about every instruction as syntax, one lemma a constructor.
EncodesRow: the encoder writes a word of the instruction's own row of R74 (its mask and match), at every value of
its operands.
-/

namespace Sys2Proof.Laws.EncodesRow

/-! ### The formats under the masks of R74: the fixed digits stay, the operand digits go -/

section
variable (t : BitVec 4) (x y : Reg) (k : BitVec 4) (nn : Byte) (nnn : BitVec 12)

theorem and_ones (t : BitVec 4) : t &&& 0xF#4 = t := BitVec.and_allOnes

theorem formatA_masked : formatA t nnn &&& 0xF000#16 = formatA t 0#12 := by
  change (t ++ nnn) &&& (0xF#4 ++ 0#12) = t ++ 0#12
  rw [BitVec.and_append, and_ones, BitVec.and_zero]

theorem formatXI_masked : formatXI t x nn &&& 0xF000#16 = formatXI t 0 0#8 := by
  change ((t ++ regBits x) ++ nn) &&& ((0xF#4 ++ 0#4) ++ 0#8) = (t ++ 0#4) ++ 0#8
  rw [BitVec.and_append, BitVec.and_append, and_ones, BitVec.and_zero, BitVec.and_zero]

theorem formatX_masked : formatX t x nn &&& 0xF0FF#16 = formatX t 0 nn := by
  change ((t ++ regBits x) ++ nn) &&& ((0xF#4 ++ 0#4) ++ BitVec.allOnes 8) = (t ++ 0#4) ++ nn
  rw [BitVec.and_append, BitVec.and_append, and_ones, BitVec.and_zero, BitVec.and_allOnes]

theorem formatXY_masked : formatXY t x y k &&& 0xF00F#16 = formatXY t 0 0 k := by
  change (((t ++ regBits x) ++ regBits y) ++ k) &&& (((0xF#4 ++ 0#4) ++ 0#4) ++ 0xF#4) = ((t ++ 0#4) ++ 0#4) ++ k
  rw [BitVec.and_append, BitVec.and_append, BitVec.and_append, and_ones, and_ones, BitVec.and_zero, BitVec.and_zero]

theorem formatXYN_masked : formatXY t x y k &&& 0xF000#16 = formatXY t 0 0 0#4 := by
  change (((t ++ regBits x) ++ regBits y) ++ k) &&& (((0xF#4 ++ 0#4) ++ 0#4) ++ 0#4) = ((t ++ 0#4) ++ 0#4) ++ 0#4
  rw [BitVec.and_append, BitVec.and_append, BitVec.and_append, and_ones, BitVec.and_zero, BitVec.and_zero,
    BitVec.and_zero]

end

/-- The word of `i` satisfies `op AND mask = match` for the row of `i` (R74). -/
def Statement (i : Instr) : Prop := encode i &&& (opcodeRow i).1 = (opcodeRow i).2

theorem cls : Statement (.cls) := rfl

theorem ret : Statement (.ret) := rfl

theorem jp (nnn : BitVec 12) : Statement (.jp nnn) := formatA_masked _ nnn

theorem call (nnn : BitVec 12) : Statement (.call nnn) := formatA_masked _ nnn

theorem seImm (x : Reg) (nn : Byte) : Statement (.seImm x nn) := formatXI_masked _ x nn

theorem sneImm (x : Reg) (nn : Byte) : Statement (.sneImm x nn) := formatXI_masked _ x nn

theorem seReg (x y : Reg) : Statement (.seReg x y) := formatXY_masked _ x y _

theorem ldImm (x : Reg) (nn : Byte) : Statement (.ldImm x nn) := formatXI_masked _ x nn

theorem addImm (x : Reg) (nn : Byte) : Statement (.addImm x nn) := formatXI_masked _ x nn

theorem ldReg (x y : Reg) : Statement (.ldReg x y) := formatXY_masked _ x y _

theorem orReg (x y : Reg) : Statement (.orReg x y) := formatXY_masked _ x y _

theorem andReg (x y : Reg) : Statement (.andReg x y) := formatXY_masked _ x y _

theorem xorReg (x y : Reg) : Statement (.xorReg x y) := formatXY_masked _ x y _

theorem addReg (x y : Reg) : Statement (.addReg x y) := formatXY_masked _ x y _

theorem subReg (x y : Reg) : Statement (.subReg x y) := formatXY_masked _ x y _

theorem shr (x y : Reg) : Statement (.shr x y) := formatXY_masked _ x y _

theorem subnReg (x y : Reg) : Statement (.subnReg x y) := formatXY_masked _ x y _

theorem shl (x y : Reg) : Statement (.shl x y) := formatXY_masked _ x y _

theorem sneReg (x y : Reg) : Statement (.sneReg x y) := formatXY_masked _ x y _

theorem ldI (nnn : BitVec 12) : Statement (.ldI nnn) := formatA_masked _ nnn

theorem jpV0 (nnn : BitVec 12) : Statement (.jpV0 nnn) := formatA_masked _ nnn

theorem rnd (x : Reg) (nn : Byte) : Statement (.rnd x nn) := formatXI_masked _ x nn

theorem drw (x y : Reg) (n : Nat) : Statement (.drw x y n) := formatXYN_masked _ x y _

theorem skp (x : Reg) : Statement (.skp x) := formatX_masked _ x _

theorem sknp (x : Reg) : Statement (.sknp x) := formatX_masked _ x _

theorem ldVxDt (x : Reg) : Statement (.ldVxDt x) := formatX_masked _ x _

theorem ldVxK (x : Reg) : Statement (.ldVxK x) := formatX_masked _ x _

theorem ldDtVx (x : Reg) : Statement (.ldDtVx x) := formatX_masked _ x _

theorem ldStVx (x : Reg) : Statement (.ldStVx x) := formatX_masked _ x _

theorem addI (x : Reg) : Statement (.addI x) := formatX_masked _ x _

theorem ldF (x : Reg) : Statement (.ldF x) := formatX_masked _ x _

theorem ldB (x : Reg) : Statement (.ldB x) := formatX_masked _ x _

theorem dump (x : Reg) : Statement (.dump x) := formatX_masked _ x _

theorem load (x : Reg) : Statement (.load x) := formatX_masked _ x _

end Sys2Proof.Laws.EncodesRow
end

