-- ==== Sys2Proof/Laws/Screen.lean ====
section
/-!
SUPPORT. Screen: pixels after a write, and what a draw does to a canvas: it flips a set of pixels, each once, and
records whether one of them was set (spec/46_display.md R171, R172).
-/

namespace Sys2Proof.Machine

theorem Framebuffer.pixel_setPixel (fb : Framebuffer) (row r : Fin 32) (col q : Fin 64) (b : Bool) :
    (fb.setPixel row col b).pixel r q = if r = row ∧ q = col then b else fb.pixel r q := by
  unfold Framebuffer.pixel Framebuffer.setPixel
  by_cases hr : r = row
  · subst hr
    by_cases hq : q = col
    · subst hq; simp
    · have : col.val ≠ q.val := fun e => hq (Fin.ext e.symm)
      simp [hq, this]
  · have : row.val ≠ r.val := fun e => hr (Fin.ext e.symm)
    simp [hr, this]

@[simp] theorem Framebuffer.pixel_blank (r : Fin 32) (q : Fin 64) : Framebuffer.blank.pixel r q = false := by
  simp [Framebuffer.pixel, Framebuffer.blank]

theorem Framebuffer.ext_pixel {a b : Framebuffer} (h : ∀ r q, a.pixel r q = b.pixel r q) : a = b := by
  apply Vector.ext
  intro r hr
  apply Vector.ext
  intro q hq
  exact h ⟨r, hr⟩ ⟨q, hq⟩

/-- From `c` to `d` exactly the pixels of `P` are flipped, and a hit is recorded when one of them was set. -/
structure Canvas.Flipped (P : Fin 32 → Fin 64 → Prop) (c d : Canvas) : Prop where
  flips : ∀ r q, P r q → d.fb.pixel r q = !c.fb.pixel r q
  keeps : ∀ r q, ¬ P r q → d.fb.pixel r q = c.fb.pixel r q
  hits : d.hit = true ↔ c.hit = true ∨ ∃ r q, P r q ∧ c.fb.pixel r q = true

theorem Canvas.Flipped.congr {P Q : Fin 32 → Fin 64 → Prop} {c d : Canvas} (h : Canvas.Flipped P c d)
    (e : ∀ r q, P r q ↔ Q r q) : Canvas.Flipped Q c d := by
  have : P = Q := funext fun r => funext fun q => propext (e r q)
  exact this ▸ h

/-- Two draws on disjoint pixels make one. -/
theorem Canvas.Flipped.trans {P Q : Fin 32 → Fin 64 → Prop} {c d e : Canvas} (h1 : Canvas.Flipped P c d)
    (h2 : Canvas.Flipped Q d e) (disjoint : ∀ r q, P r q → ¬ Q r q) :
    Canvas.Flipped (fun r q => P r q ∨ Q r q) c e where
  flips r q h := by
    rcases h with h | h
    · rw [h2.keeps r q (disjoint r q h), h1.flips r q h]
    · rw [h2.flips r q h, h1.keeps r q fun hp => disjoint r q hp h]
  keeps r q h := by
    rw [h2.keeps r q fun hq => h (.inr hq), h1.keeps r q fun hp => h (.inl hp)]
  hits := by
    rw [h2.hits, h1.hits]
    constructor
    · rintro ((h | ⟨r, q, hp, hs⟩) | ⟨r, q, hq, hs⟩)
      · exact .inl h
      · exact .inr ⟨r, q, .inl hp, hs⟩
      · exact .inr ⟨r, q, .inr hq, by rw [← h1.keeps r q fun hp => disjoint r q hp hq]; exact hs⟩
    · rintro (h | ⟨r, q, hp | hq, hs⟩)
      · exact .inl (.inl h)
      · exact .inl (.inr ⟨r, q, hp, hs⟩)
      · exact .inr ⟨r, q, hq, by rw [h1.keeps r q fun hp => disjoint r q hp hq]; exact hs⟩

theorem Canvas.flipped_plot (c : Canvas) (bit : Bool) (row col : Nat) :
    Canvas.Flipped (fun r q => bit = true ∧ wrapRow row = r ∧ wrapCol col = q) c (c.plot bit row col) := by
  cases bit with
  | false => exact ⟨by simp, by simp [Canvas.plot], by simp [Canvas.plot]⟩
  | true =>
    refine ⟨?_, ?_, ?_⟩
    · rintro r q ⟨-, rfl, rfl⟩; simp [Canvas.plot, Framebuffer.pixel_setPixel]
    · intro r q h
      have : ¬ (r = wrapRow row ∧ q = wrapCol col) := fun e => h ⟨rfl, e.1.symm, e.2.symm⟩
      simp [Canvas.plot, Framebuffer.pixel_setPixel, this]
    · simp [Canvas.plot]

/-- The columns of one sprite row: columns distinct and below 8 meet distinct pixels. -/
theorem Canvas.flipped_plotCols (b : Byte) (row x0 : Nat) (ks : List Nat) (small : ∀ k ∈ ks, k < 8) (nodup : ks.Nodup)
    (c : Canvas) :
    Canvas.Flipped
      (fun r q => ∃ k ∈ ks, b.getLsbD (7 - k) = true ∧ wrapRow row = r ∧ wrapCol (x0 + k) = q)
      c (Canvas.plotCols b row x0 ks c) := by
  induction ks generalizing c with
  | nil => exact ⟨by simp, by simp [Canvas.plotCols], by simp [Canvas.plotCols]⟩
  | cons k ks ih =>
    rw [List.nodup_cons] at nodup
    have step := (c.flipped_plot (b.getLsbD (7 - k)) row (x0 + k)).trans
      (ih (fun j hj => small j (List.mem_cons_of_mem k hj)) nodup.2 _) ?_
    · exact step.congr fun r q => by simp
    · rintro r q ⟨-, -, hq⟩ ⟨j, hj, -, -, hq'⟩
      have h1 := small k List.mem_cons_self
      have h2 := small j (List.mem_cons_of_mem k hj)
      have h3 : (x0 + k) % 64 = (x0 + j) % 64 := congrArg Fin.val (hq.trans hq'.symm)
      have : k = j := by omega
      exact nodup.1 (this ▸ hj)

/-- The pixels of a sprite with its top-left pixel at column `x0`, row `y0`: those under a 1 bit (R172). -/
def spritePixels (x0 y0 : Nat) (bs : List Byte) (r : Fin 32) (q : Fin 64) : Prop :=
  ∃ j k : Nat, ∃ hj : j < bs.length, k < 8 ∧ bs[j].getLsbD (7 - k) = true ∧ wrapRow (y0 + j) = r ∧ wrapCol (x0 + k) = q

theorem spritePixels_cons (x0 y0 : Nat) (b : Byte) (bs : List Byte) (r : Fin 32) (q : Fin 64) :
    spritePixels x0 y0 (b :: bs) r q ↔
      (∃ k ∈ [0, 1, 2, 3, 4, 5, 6, 7], b.getLsbD (7 - k) = true ∧ wrapRow y0 = r ∧ wrapCol (x0 + k) = q) ∨
        spritePixels x0 (y0 + 1) bs r q := by
  constructor
  · rintro ⟨j, k, hj, hk, hb, hr, hq⟩
    cases j with
    | zero =>
      have mem : k ∈ [0, 1, 2, 3, 4, 5, 6, 7] := by simp; omega
      exact .inl ⟨k, mem, hb, hr, hq⟩
    | succ j =>
      exact .inr ⟨j, k, by simpa using hj, hk, hb, by rw [← hr, Nat.add_assoc, Nat.add_comm 1 j], hq⟩
  · rintro (⟨k, mem, hb, hr, hq⟩ | ⟨j, k, hj, hk, hb, hr, hq⟩)
    · have hk : k < 8 := by simp at mem; omega
      exact ⟨0, k, by simp, hk, hb, hr, hq⟩
    · exact ⟨j + 1, k, by simpa using hj, hk, hb, by rw [← hr, Nat.add_assoc, Nat.add_comm 1 j], hq⟩

/-- Everything a draw of at most 32 rows does to a canvas: it flips the pixels of the sprite. -/
theorem Canvas.flipped_plotRows (x0 : Nat) (bs : List Byte) (y0 : Nat) (short : bs.length ≤ 32) (c : Canvas) :
    Canvas.Flipped (spritePixels x0 y0 bs) c (Canvas.plotRows x0 bs y0 c) := by
  induction bs generalizing y0 c with
  | nil =>
    have none : ∀ r q, ¬ spritePixels x0 y0 [] r q := by rintro r q ⟨j, k, hj, -⟩; simp at hj
    exact ⟨fun r q h => absurd h (none r q), fun _ _ _ => rfl, by simp [Canvas.plotRows, none]⟩
  | cons b bs ih =>
    simp only [List.length_cons] at short
    have row := c.flipped_plotCols b y0 x0 [0, 1, 2, 3, 4, 5, 6, 7] (by decide) (by decide)
    refine (row.trans (ih (y0 + 1) (by omega) _) ?_).congr fun r q => (spritePixels_cons x0 y0 b bs r q).symm
    rintro r q ⟨k, -, -, hr, -⟩ ⟨j, k', hj, -, -, hr', -⟩
    have : y0 % 32 = (y0 + 1 + j) % 32 := congrArg Fin.val (hr.trans hr'.symm)
    omega

/-- What a sprite draws depends on these parts of the state alone. -/
theorem State.drawSprite_congr {s t : State} (mem : t.mem = s.mem) (cfg : t.cfg = s.cfg) (v : t.v = s.v)
    (i : t.i = s.i) (fb : t.fb = s.fb) (x y : Reg) (n : Nat) : t.drawSprite x y n = s.drawSprite x y n := by
  simp only [State.drawSprite, State.reg, v, i, fb, State.peekBytes_congr mem cfg]

end Sys2Proof.Machine
end

