-- ==== Sys2Proof/Laws/Step.lean ====
section
/-!
SUPPORT. Step: everything a step can do, once.
-/

namespace Sys2Proof.Machine

variable {s t : State}

/-- A step that answers a next state is a poll of the key wait or an executed instruction. -/
theorem step_next_cases (h : step s = .next t) :
    (s.mode = .awaitingKey ∧ t = s.pollKey) ∨
      (s.mode = .running ∧ s.pc.toNat ≤ 0xFFE ∧ s.pc.toNat % 2 = 0 ∧
        ∃ i, decodeWord (s.peekWord s.pc.toNat) = .ok i ∧ exec i s = .next t) := by
  unfold step at h
  split at h
  · next hm => left; cases h; exact ⟨hm, rfl⟩
  · next hm =>
    right
    split at h
    · cases h
    · next op hf =>
      obtain ⟨hb, he, rfl⟩ := State.fetch_eq_ok.1 hf
      split at h
      · cases h
      · next i hi => exact ⟨hm, hb, he, i, hi, h⟩

/-- What the poll can do. -/
theorem pollKey_cases (s : State) :
    (s.newKeys = 0#16 ∧ s.pollKey = { s with kprev := s.keys }) ∨
      (∃ k, leastKey s.newKeys = some k ∧ s.pollKey = s.endWait k) := by
  unfold State.pollKey
  split
  · next h => left; exact ⟨leastKey_eq_none.1 h, rfl⟩
  · next k h => right; exact ⟨k, h, rfl⟩

end Sys2Proof.Machine
end

