-- ==== Sys2Proof/Tests/Slice0.lean ====
section
/-!
SUPPORT. Tests: the well-formedness check, the decoding of one written-out word for every row of the opcode table,
one step of every instruction on vectors of spec/95_test_vectors.md (named in each docstring), and a witness for
every obligation that has hypotheses.
-/

open Sys2Proof Sys2Proof.Machine

namespace Sys2Proof.Tests

/-! ### Small states and what a step shows -/

/-- The reset state with some general registers set. -/
def regs (l : List (Reg × Byte)) : State := l.foldl (fun s p => s.setReg p.1 p.2) State.reset

/-- The reset state with the three toggles set: shift source, index overflow, index increment. -/
def toggled (s : State) (shift overflow increment : Bool) : State :=
  { s with cfg := { s.cfg with shiftSourceVy := shift, iOverflowSetsVf := overflow, iIncrement := increment } }

/-- What `f` sees of the next state. -/
def seen {α : Type} (f : State → α) : Result → Option α
  | .next t => some (f t)
  | .fault _ | .refused _ => none

/-- The error of an outcome. -/
def errorOf : Result → Option Fault
  | .fault k => some k
  | .next _ | .refused _ => none

/-- The outcome of one step with the word `w` at PC. -/
def stepOn (s : State) (w : Nat) : Result := step (s.withFetchWord 16 w)

/-- V0 and VF. -/
def v0vf (t : State) : Byte × Byte := (t.reg 0, t.reg 15)

/-- A framebuffer with the given pixels set. -/
def screen (l : List (Fin 32 × Fin 64)) : Framebuffer := l.foldl (fun fb p => fb.setPixel p.1 p.2 true) Framebuffer.blank

/-- The values of the given pixels. -/
def pixels (l : List (Fin 32 × Fin 64)) (t : State) : List Bool := l.map fun p => t.fb.pixel p.1 p.2

/-! ### Well-formedness -/

/-- The one check of R73: 16 rows do not fit the field, 15 do. -/
theorem test_row_count_refused : (Instr.drw 0 0 16).wellFormed = false ∧ (Instr.drw 15 15 15).wellFormed = true ∧
    (Instr.drw 0 0 0).wellFormed = true := by decide

/-! ### Decoding: every row of R74, its word written out bit by bit -/

theorem test_decode_control :
    decodeWord 0b0000000011100000#16 = .ok .cls ∧ decodeWord 0b0000000011101110#16 = .ok .ret ∧
    decodeWord 0b0001001000000100#16 = .ok (.jp 0x204#12) ∧ decodeWord 0b0010111111111110#16 = .ok (.call 0xFFE#12) ∧
    decodeWord 0b1011001100000000#16 = .ok (.jpV0 0x300#12) := by decide

theorem test_decode_skips :
    decodeWord 0b0011000110100101#16 = .ok (.seImm 1 0xA5#8) ∧ decodeWord 0b0100001000010000#16 = .ok (.sneImm 2 0x10#8) ∧
    decodeWord 0b0101001101000000#16 = .ok (.seReg 3 4) ∧ decodeWord 0b1001001101000000#16 = .ok (.sneReg 3 4) ∧
    decodeWord 0b1110010110011110#16 = .ok (.skp 5) ∧ decodeWord 0b1110011010100001#16 = .ok (.sknp 6) := by decide

theorem test_decode_immediates :
    decodeWord 0b0110111110101011#16 = .ok (.ldImm 15 0xAB#8) ∧ decodeWord 0b0111000111111111#16 = .ok (.addImm 1 0xFF#8) ∧
    decodeWord 0b1010001100000001#16 = .ok (.ldI 0x301#12) ∧ decodeWord 0b1100000000001111#16 = .ok (.rnd 0 0x0F#8) := by
  decide

theorem test_decode_alu :
    decodeWord 0b1000000100100000#16 = .ok (.ldReg 1 2) ∧ decodeWord 0b1000000100100001#16 = .ok (.orReg 1 2) ∧
    decodeWord 0b1000000100100010#16 = .ok (.andReg 1 2) ∧ decodeWord 0b1000000100100011#16 = .ok (.xorReg 1 2) ∧
    decodeWord 0b1000000100100100#16 = .ok (.addReg 1 2) ∧ decodeWord 0b1000000100100101#16 = .ok (.subReg 1 2) ∧
    decodeWord 0b1000000100100110#16 = .ok (.shr 1 2) ∧ decodeWord 0b1000000100100111#16 = .ok (.subnReg 1 2) ∧
    decodeWord 0b1000000100101110#16 = .ok (.shl 1 2) := by decide

theorem test_decode_draw : decodeWord 0b1101101001010011#16 = .ok (.drw 10 5 3) := by decide

theorem test_decode_F :
    decodeWord 0b1111001000000111#16 = .ok (.ldVxDt 2) ∧ decodeWord 0b1111001100001010#16 = .ok (.ldVxK 3) ∧
    decodeWord 0b1111010000010101#16 = .ok (.ldDtVx 4) ∧ decodeWord 0b1111010100011000#16 = .ok (.ldStVx 5) ∧
    decodeWord 0b1111011000011110#16 = .ok (.addI 6) ∧ decodeWord 0b1111011100101001#16 = .ok (.ldF 7) ∧
    decodeWord 0b1111100000110011#16 = .ok (.ldB 8) ∧ decodeWord 0b1111100101010101#16 = .ok (.dump 9) ∧
    decodeWord 0b1111101001100101#16 = .ok (.load 10) := by decide

/-- Vectors X6 to X11. -/
theorem test_decode_illegal :
    [0x0000#16, 0x00E1#16, 0x00EF#16, 0x00FE#16, 0x0123#16, 0x5341#16, 0x9341#16, 0x8018#16, 0x8019#16, 0x801F#16,
      0xE000#16, 0xE09F#16, 0xE0A0#16, 0xF000#16, 0xF008#16, 0xF075#16, 0xF085#16, 0xF0FF#16].all
      (fun op => decodeWord op = .error .invalidOpcode) = true := by decide

/-- The first byte is the high one (R53), a lone byte is no instruction (R70), and the host's numbering agrees. -/
theorem test_decode_bytes :
    decode [0x12#8, 0x04#8, 0xFF#8] = .ok (.jp 0x204#12, [0xFF#8]) ∧ decode [0x12#8] = .error .truncated ∧
    decodeTableWord 16 0x1204 = some (.jp 0x204#12) ∧ decodeTableWord 16 0x0000 = none := by decide

/-! ### Fetch -/

/-- Vectors X1 to X5. -/
theorem test_fetch_tests :
    seen State.pc (stepOn { State.reset with pc := 0x0FFE#16 } 0x6000) = some 0x1000#16 ∧
    errorOf (stepOn { State.reset with pc := 0x0FFF#16 } 0x6000) = some .memoryOutOfBounds ∧
    errorOf (step { State.reset with pc := 0x1000#16 }) = some .memoryOutOfBounds ∧
    errorOf (step { State.reset with pc := 0x0201#16 }) = some .misalignedPC := by decide

/-- Vector B9: an empty machine runs `0000`. -/
theorem test_reset_step : errorOf (step State.reset) = some .invalidOpcode := by decide

/-! ### Control transfer -/

/-- Vectors T3, T2. -/
theorem test_ret :
    seen (fun t => (t.pc, t.sp)) (stepOn { State.reset with
      pc := 0x300#16, sp := 16, stack := State.reset.stack.set 15 0x0ABC#16 } 0x00EE) = some (0x0ABC#16, 15) ∧
    errorOf (stepOn State.reset 0x00EE) = some .stackUnderflow := by decide

/-- Vector T6: an odd target is written. -/
theorem test_jp : seen State.pc (stepOn State.reset 0x1201) = some 0x0201#16 := by decide

/-- Vectors T9, T10. -/
theorem test_call :
    seen (fun t => (t.pc, t.sp, t.stack[15])) (stepOn { State.reset with pc := 0x2FE#16, sp := 15 } 0x2300) =
      some (0x0300#16, 16, 0x0300#16) ∧
    errorOf (stepOn { State.reset with pc := 0x2FE#16, sp := 16 } 0x2300) = some .stackOverflow := by decide

/-- Vector T14: no wrap at 12 bits. -/
theorem test_jpV0 : seen State.pc (stepOn (regs [(0, 0xFF#8)]) 0xBFFF) = some 0x10FE#16 := by decide

/-! ### Skips -/

/-- Vectors J1, J2. -/
theorem test_seImm : seen State.pc (stepOn (regs [(1, 0x00#8)]) 0x3100) = some 0x0204#16 ∧
    seen State.pc (stepOn (regs [(1, 0x01#8)]) 0x3100) = some 0x0202#16 := by decide

/-- Vectors J3, J4. -/
theorem test_sneImm : seen State.pc (stepOn (regs [(2, 0x10#8)]) 0x4210) = some 0x0202#16 ∧
    seen State.pc (stepOn (regs [(2, 0x11#8)]) 0x4210) = some 0x0204#16 := by decide

/-- Vectors J5, J6. -/
theorem test_seReg : seen State.pc (stepOn (regs [(3, 0x7F#8), (4, 0x7F#8)]) 0x5340) = some 0x0204#16 ∧
    seen State.pc (stepOn (regs [(3, 0x7F#8), (4, 0x80#8)]) 0x5340) = some 0x0202#16 := by decide

/-- Vectors J8, J9. -/
theorem test_sneReg : seen State.pc (stepOn (regs [(3, 0x7F#8), (4, 0x80#8)]) 0x9340) = some 0x0204#16 ∧
    seen State.pc (stepOn (regs [(3, 0x7F#8), (4, 0x7F#8)]) 0x9340) = some 0x0202#16 := by decide

/-! ### Register-immediate -/

/-- Vector I2. -/
theorem test_ldImm : seen (fun t => (t.reg 15, t.pc)) (stepOn State.reset 0x6FAB) = some (0xAB#8, 0x0202#16) := by decide

/-- Vectors I3, I5: modulo 256, no flag. -/
theorem test_addImm : seen (fun t => t.reg 1) (stepOn (regs [(1, 0x05#8)]) 0x71FF) = some 0x04#8 ∧
    seen (fun t => t.reg 15) (stepOn (regs [(15, 0xFF#8)]) 0x7F01) = some 0x00#8 := by decide

/-! ### ALU -/

/-- Vector A3. -/
theorem test_ldReg : seen v0vf (stepOn (regs [(15, 0x01#8)]) 0x80F0) = some (0x01#8, 0x01#8) := by decide

/-- Vectors A4, A5, A6: VF untouched. -/
theorem test_logic :
    seen v0vf (stepOn (regs [(0, 0xF0#8), (1, 0x0F#8), (15, 0x01#8)]) 0x8011) = some (0xFF#8, 0x01#8) ∧
    seen v0vf (stepOn (regs [(0, 0xF3#8), (1, 0x3F#8), (15, 0x01#8)]) 0x8012) = some (0x33#8, 0x01#8) ∧
    seen v0vf (stepOn (regs [(0, 0xFF#8), (1, 0x0F#8), (15, 0x01#8)]) 0x8013) = some (0xF0#8, 0x01#8) := by decide

/-- Vectors A10, A13: the carry, and the flag written last. -/
theorem test_addReg : seen v0vf (stepOn (regs [(0, 0xFF#8), (1, 0xFF#8)]) 0x8014) = some (0xFE#8, 0x01#8) ∧
    seen (fun t => t.reg 15) (stepOn (regs [(15, 0xFF#8), (1, 0x02#8)]) 0x8F14) = some 0x01#8 := by decide

/-- Vectors A17, A18: borrow, and equality. -/
theorem test_subReg : seen v0vf (stepOn (regs [(0, 0x03#8), (1, 0x0A#8)]) 0x8015) = some (0xF9#8, 0x00#8) ∧
    seen v0vf (stepOn (regs [(0, 0x07#8), (1, 0x07#8)]) 0x8015) = some (0x00#8, 0x01#8) := by decide

/-- Vectors A23, A24. -/
theorem test_subnReg : seen v0vf (stepOn (regs [(0, 0x03#8), (1, 0x0A#8)]) 0x8017) = some (0x07#8, 0x01#8) ∧
    seen v0vf (stepOn (regs [(0, 0x0A#8), (1, 0x03#8)]) 0x8017) = some (0xF9#8, 0x00#8) := by decide

/-- Vector A27, both toggles. -/
theorem test_shr : seen v0vf (stepOn (regs [(0, 0xF0#8), (1, 0x05#8)]) 0x8016) = some (0x02#8, 0x01#8) ∧
    seen v0vf (stepOn (toggled (regs [(0, 0xF0#8), (1, 0x05#8)]) false false true) 0x8016) = some (0x78#8, 0x00#8) := by
  decide

/-- Vector A31, both toggles. -/
theorem test_shl : seen v0vf (stepOn (regs [(0, 0x80#8), (1, 0x7F#8)]) 0x801E) = some (0xFE#8, 0x00#8) ∧
    seen v0vf (stepOn (toggled (regs [(0, 0x80#8), (1, 0x7F#8)]) false false true) 0x801E) = some (0x00#8, 0x01#8) := by
  decide

/-! ### Index and memory -/

/-- Vector E2. -/
theorem test_ldI : seen State.i (stepOn { State.reset with i := 0xFFFF#16 } 0xAFFF) = some 0x0FFF#16 := by decide

/-- Vector E6: the 16-bit wrap, without and with the toggle. -/
theorem test_addI_wrap :
    seen (fun t => (t.i, t.reg 15)) (stepOn { regs [(0, 0x01#8), (15, 0x07#8)] with i := 0xFFFF#16 } 0xF01E) =
      some (0x0000#16, 0x07#8) ∧
    seen (fun t => (t.i, t.reg 15)) (stepOn (toggled { regs [(0, 0x01#8), (15, 0x07#8)] with i := 0xFFFF#16 }
      true true true) 0xF01E) = some (0x0000#16, 0x01#8) := by decide

/-- Vectors E4, E5, E7 with the toggle: the boundary at 0x0FFF, and VF as the addend. -/
theorem test_addI_flag :
    seen (fun t => (t.i, t.reg 15)) (stepOn (toggled { regs [(0, 0x01#8)] with i := 0x0FFF#16 } true true true) 0xF01E) =
      some (0x1000#16, 0x01#8) ∧
    seen (fun t => (t.i, t.reg 15)) (stepOn (toggled { regs [(0, 0x01#8), (15, 0x07#8)] with i := 0x0FFE#16 }
      true true true) 0xF01E) = some (0x0FFF#16, 0x00#8) ∧
    seen (fun t => (t.i, t.reg 15)) (stepOn (toggled { regs [(15, 0x20#8)] with i := 0x0FF0#16 } true true true) 0xFF1E) =
      some (0x1010#16, 0x01#8) := by decide

/-- Vectors E8, E10. -/
theorem test_ldF : seen State.i (stepOn (regs [(0, 0x0A#8)]) 0xF029) = some 0x0082#16 ∧
    seen State.i (stepOn (regs [(0, 0xFF#8)]) 0xF029) = some 0x009B#16 := by decide

/-- Vector E11: the source's example S3. -/
theorem test_ldB : seen (fun t => (t.peekBytes 0x300 4, t.i)) (stepOn { regs [(0, 0x9D#8)] with i := 0x0300#16 } 0xF033) =
    some ([0x01#8, 0x05#8, 0x07#8, 0x00#8], 0x0300#16) := by decide

/-- Vectors E15, E16. -/
theorem test_ldB_bounds :
    seen (fun t => t.peekBytes 0xFFD 3) (stepOn { regs [(0, 0x64#8)] with i := 0x0FFD#16 } 0xF033) =
      some [0x01#8, 0x00#8, 0x00#8] ∧
    errorOf (stepOn { regs [(0, 0x64#8)] with i := 0x0FFE#16 } 0xF033) = some .memoryOutOfBounds := by decide

/-- Vector E18, both toggles. -/
theorem test_dump :
    seen (fun t => (t.peekBytes 0x208 2, t.i)) (stepOn { regs [(0, 0x12#8), (1, 0x08#8)] with i := 0x0208#16 } 0xF155) =
      some ([0x12#8, 0x08#8], 0x020A#16) ∧
    seen State.i (stepOn (toggled { State.reset with i := 0x0208#16 } true false false) 0xF155) = some 0x0208#16 := by
  decide

/-- Vectors E21 (the last byte of memory), E22. -/
theorem test_dump_bounds :
    seen (fun t => (t.peek 0xFFF, t.i)) (stepOn { regs [(15, 0x1F#8)] with i := 0x0FF0#16 } 0xFF55) =
      some (0x1F#8, 0x1000#16) ∧
    errorOf (stepOn { State.reset with i := 0x0FF1#16 } 0xFF55) = some .memoryOutOfBounds := by decide

/-- Vector E26: the font (D25), a register for each byte. -/
theorem test_load_font : seen (fun t => (t.v.toList, t.i)) (stepOn { State.reset with i := 0x0050#16 } 0xFF65) =
    some ([0xF0#8, 0x90#8, 0x90#8, 0x90#8, 0xF0#8, 0x20#8, 0x60#8, 0x20#8, 0x20#8, 0x70#8, 0xF0#8, 0x10#8, 0xF0#8,
      0x80#8, 0xF0#8, 0xF0#8], 0x0060#16) := by decide

/-- Vectors E23 (V3 is kept), E25. -/
theorem test_load :
    seen (fun t => (t.reg 0, t.reg 2, t.reg 3, t.i)) (stepOn ({ regs [(3, 0x77#8)] with i := 0x0300#16 }.pokeBytes 0x300
      [0x02#8, 0x05#8, 0x04#8, 0x09#8]) 0xF265) = some (0x02#8, 0x04#8, 0x77#8, 0x0303#16) ∧
    errorOf (stepOn { State.reset with i := 0x0FFF#16 } 0xF165) = some .memoryOutOfBounds := by decide

/-! ### Random -/

/-- Vectors Q2, Q5: whatever byte is drawn, the bits outside `nn` are clear. -/
theorem test_rnd : seen (fun t => t.draws) (stepOn State.reset 0xC000) = some 1 ∧
    ∀ t, exec (.rnd 0 0x0F#8) State.reset = .next t → t.reg 0 &&& 0xF0#8 = 0x00#8 := by
  refine ⟨rfl, fun t h => ?_⟩
  cases h
  rw [show State.reg _ 0 = Config.drawByte 0 &&& 0x0F#8 from rfl, BitVec.and_assoc]
  simp

/-! ### Display -/

/-- Vector W1. -/
theorem test_cls : seen (fun t => (pixels [(0, 0), (10, 20), (31, 63)] t, t.reg 15)) (stepOn { regs [(15, 0x01#8)] with
    fb := screen [(0, 0), (10, 20), (31, 63)] } 0x00E0) = some ([false, false, false], 0x01#8) := by decide

/-- Vector W14: every pixel wraps. -/
theorem test_drw_wraps : seen (fun t => (pixels [(31, 62), (31, 63), (31, 0), (31, 5), (31, 6), (0, 62), (0, 63), (0, 5)] t,
    t.reg 15)) (stepOn ({ regs [(0, 0x3E#8), (1, 0x1F#8)] with i := 0x020C#16 }.pokeBytes 0x20C [0xFF#8, 0x81#8]) 0xD012) =
    some ([true, true, true, true, false, true, false, true], 0x00#8) := by decide

/-- Vectors W5, W11, W7: a collision, the bounds, and no rows. -/
theorem test_drw_flag :
    seen (fun t => (pixels [(0, 0), (0, 1)] t, t.reg 15)) (stepOn ({ State.reset with
      i := 0x0300#16, fb := screen [(0, 1)] }.pokeBytes 0x300 [0xC0#8]) 0xD011) = some ([true, false], 0x01#8) ∧
    errorOf (stepOn { State.reset with i := 0x0FF2#16 } 0xD01F) = some .memoryOutOfBounds ∧
    seen (fun t => t.reg 15) (stepOn { regs [(15, 0x01#8)] with i := 0x2000#16 } 0xD010) = some 0x00#8 := by decide

/-! ### Keypad -/

/-- Vectors K3, K2. -/
theorem test_skp : seen State.pc (stepOn { regs [(0, 0x15#8)] with keys := 0x0020#16 } 0xE09E) = some 0x0204#16 ∧
    seen State.pc (stepOn (regs [(0, 0x05#8)]) 0xE09E) = some 0x0202#16 := by decide

/-- Vectors K6, K5. -/
theorem test_sknp : seen State.pc (stepOn { regs [(0, 0xF5#8)] with keys := 0xFFDF#16 } 0xE0A1) = some 0x0204#16 ∧
    seen State.pc (stepOn { regs [(0, 0x05#8)] with keys := 0x0020#16 } 0xE0A1) = some 0x0202#16 := by decide

/-- A machine waiting for a key for V1 at 0x204, as `Fx0A` leaves it, with the keys it last saw and the keys now. -/
def waiting (last now : BitVec 16) : State :=
  { State.reset.pokeBytes 0x204 [0xF1#8, 0x0A#8] with
    pc := 0x204#16, mode := .awaitingKey, waitX := 1, kprev := last, keys := now }

/-- Vector K8: a held key does not complete. -/
theorem test_ldVxK : seen (fun t => (t.mode, t.waitX, t.kprev, t.pc, t.reg 1)) (stepOn { State.reset with
    pc := 0x204#16, keys := 0x0008#16 } 0xF10A) = some (.awaitingKey, 1, 0x0008#16, 0x0204#16, 0x00#8) := by decide

/-- Vectors K11, K13: the lowest new key, and a release that is remembered. -/
theorem test_poll :
    seen (fun t => (t.reg 1, t.pc, t.mode)) (step (waiting 0 0x0208#16)) = some (0x03#8, 0x0206#16, .running) ∧
    seen (fun t => (t.kprev, t.pc, t.mode)) (step (waiting 0x0008#16 0)) = some (0, 0x0204#16, .awaitingKey) := by decide

/-! ### Timers -/

/-- Vectors M1, M2, M4. -/
theorem test_timer_instructions :
    seen (fun t => (t.reg 2, t.dt)) (stepOn { State.reset with dt := 0x06#8 } 0xF207) = some (0x06#8, 0x06#8) ∧
    seen State.dt (stepOn { regs [(0, 0x0A#8)] with dt := 0xFF#8 } 0xF015) = some 0x0A#8 ∧
    seen (fun t => (t.st, t.soundActive)) (stepOn (regs [(3, 0x02#8)]) 0xF318) = some (0x02#8, true) := by decide

/-- Vectors M6, M7: floored at 0, independent. -/
theorem test_tick : (State.tickTimers { State.reset with dt := 0x00#8, st := 0x03#8 }).dt = 0x00#8 ∧
    (State.tickTimers { State.reset with dt := 0x00#8, st := 0x03#8 }).st = 0x02#8 := by decide

/-! ### Reset, load_rom, set_key -/

/-- Vector B1. -/
theorem test_reset_memory : State.reset.peekBytes 0x4F 6 = [0x00#8, 0xF0#8, 0x90#8, 0x90#8, 0x90#8, 0xF0#8] ∧
    State.reset.peekBytes 0x9B 6 = [0xF0#8, 0x80#8, 0xF0#8, 0x80#8, 0x80#8, 0x00#8] := by decide

/-- Vectors B4, B6, B7, B8. -/
theorem test_load_rom :
    (State.reset.loadRom [0xAB#8] 0x1FF).isOk = false ∧
    (State.reset.loadRom [0xAB#8] 0xFFF).toOption.map (fun t => (t.peek 0xFFF, t.pc)) = some (0xAB#8, 0x0FFF#16) ∧
    (State.reset.loadRom [0xAB#8, 0xCD#8] 0xFFF).isOk = false ∧ (State.reset.loadRom [] 0x1000).isOk = false := by decide

/-- Log 35: after a step that raised, and after a load that left the reset state, the machine is still fresh; after a
load that changed memory it is not. -/
theorem test_fresh_by_value :
    (transactAll State.reset [.step, .loadRom [0x00#8] 0x200, .loadRom [0x60#8] 0x200]).isOk = true ∧
    (transactAll State.reset [.loadRom [0x60#8] 0x200, .loadRom [0x60#8] 0x200]).isOk = false := by decide

/-- R210: a press sets one bit, a release clears it. -/
theorem test_set_key : (State.reset.setKey 7 true).keys = 0x0080#16 ∧
    (State.setKey { State.reset with keys := 0xFFFF#16 } 15 false).keys = 0x7FFF#16 := by decide

/-! ### Witnesses: concrete states and operands that meet all the hypotheses of a statement -/

/-- O1, O3: the bounds of the one checked operand. -/
theorem witness_DecodeInvertsEncode : (Instr.drw 15 0 15).wellFormed = true ∧ (Instr.drw 0 15 0).wellFormed = true ∧
    (Instr.load 15).wellFormed = true := by decide

/-- O2. -/
theorem witness_EncodeInvertsDecode : decode [0xDF#8, 0xFF#8, 0x12#8] = .ok (.drw 15 15 15, [0x12#8]) ∧
    decode [0x00#8, 0xE0#8] = .ok (.cls, []) := by decide

/-- O4, both clauses. -/
theorem witness_DecodingFollowsTheOpcodeTable : decodeWord 0xFF65#16 = .ok (.load 15) ∧
    (0xF0FF#16, 0xF065#16) ∈ opcodeTable ∧ 0xFF65#16 &&& 0xF0FF#16 = 0xF065#16 := by decide

/-- O5. -/
theorem witness_OpcodeRowsAreDisjoint : (0xFFFF#16, 0x00E0#16) ∈ opcodeTable ∧ 0x00E0#16 &&& 0xFFFF#16 = 0x00E0#16 := by
  decide

/-- O8, at the last legal address. -/
theorem witness_StepRunsTheDecodedInstruction :
    let s := ({ State.reset with pc := 0x0FFE#16 } : State).withFetchWord 16 0x6005
    s.mode = .running ∧ s.pc.toNat % 2 = 0 ∧ s.pc.toNat ≤ 0xFFE ∧
      decode [s.peek s.pc.toNat, s.peek (s.pc.toNat + 1)] = .ok (.ldImm 0 0x05#8, []) := by decide

/-- O9, each clause: PC 0xFFF, PC 0x201, the wait, and a step that completes at 0xFFE. -/
theorem witness_FetchTestsInOrder :
    (({ State.reset with pc := 0x0FFF#16 } : State).mode = .running ∧
      0xFFE < ({ State.reset with pc := 0x0FFF#16 } : State).pc.toNat) ∧
    errorOf (step { State.reset with pc := 0x0201#16 }) = some .misalignedPC ∧
    (waiting 0 0).mode = .awaitingKey ∧
    ∃ t, step (({ State.reset with pc := 0x0FFE#16 } : State).withFetchWord 16 0x6005) = .next t :=
  ⟨by decide, by decide, rfl, _, rfl⟩

/-- O11, both clauses. -/
theorem witness_UnmatchedWordRaisesInvalidOpcode : step State.reset = .fault .invalidOpcode := rfl

/-- O12, O13: the states on both sides of each bound. -/
theorem witness_ErrorBounds :
    errorOf (exec (.call 0x300#12) { State.reset with sp := 16 }) = some .stackOverflow ∧
    errorOf (exec (.call 0x300#12) { State.reset with sp := 15 }) = none ∧
    errorOf (exec .ret State.reset) = some .stackUnderflow ∧ errorOf (exec .ret { State.reset with sp := 1 }) = none ∧
    errorOf (exec (.drw 0 0 15) { State.reset with i := 0x0FF2#16 }) = some .memoryOutOfBounds ∧
    errorOf (exec (.ldB 0) { State.reset with i := 0x0FFE#16 }) = some .memoryOutOfBounds ∧
    errorOf (exec (.ldB 0) { State.reset with i := 0x0FFD#16 }) = none ∧
    errorOf (exec (.load 0) { State.reset with i := 0x1000#16 }) = some .memoryOutOfBounds ∧
    errorOf (exec (.load 0) { State.reset with i := 0x0FFF#16 }) = none := by decide

/-- O14: the dead machine of reset, and a run of every kind of transaction. -/
theorem witness_DeadStateStaysDead : ∃ s' rs,
    step State.reset = .fault .invalidOpcode ∧
    (∀ t ∈ [Transaction.step, .tickTimers, .setKey 15 true, .framebufferSnapshot, .soundActive], t.isRunning = true) ∧
    transactAll State.reset [.step, .tickTimers, .setKey 15 true, .framebufferSnapshot, .soundActive] = .ok (s', rs) :=
  ⟨_, _, rfl, by decide, rfl⟩

/-- O16, each clause at its bounds. -/
theorem witness_ReturnRule : 0 < ({ State.reset with sp := 1 } : State).sp.val ∧
    0 < ({ State.reset with sp := 16 } : State).sp.val ∧ State.reset.sp.val = 0 := by decide

/-- O18, each clause at its bounds. -/
theorem witness_CallRule : State.reset.sp.val < 16 ∧ ({ State.reset with sp := 15 } : State).sp.val < 16 ∧
    ({ State.reset with sp := 16 } : State).sp.val = 16 := by decide

/-- O24: a source for each value of the toggle. -/
theorem witness_ShiftRules :
    (∃ src, (State.reset.cfg.shiftSourceVy = true → src = ((regs [(1, 0x81#8)]).reg 1).toNat) ∧
      State.reset.cfg.shiftSourceVy = true ∧ src = 0x81) ∧
    (toggled State.reset false false true).cfg.shiftSourceVy = false := ⟨⟨0x81, by decide, rfl, rfl⟩, rfl⟩

/-- The reset machine with `I` set. -/
def indexed (w : Word) : State := { State.reset with i := w }

/-- O26: each value of the toggle. -/
theorem witness_AddIndexRule : State.reset.cfg.iOverflowSetsVf = false ∧
    (toggled State.reset true true false).cfg.iOverflowSetsVf = true := by decide

/-- O29, O30: the last range that fits and the first that does not, for 16 registers and for one, and each value of
the toggle. -/
theorem witness_RegisterDumpRule :
    ((indexed 0x0FF0#16).mem.wf (indexed 0x0FF0#16).cfg.resetByte = true ∧
      (indexed 0x0FF0#16).i.toNat + (15 : Reg).val ≤ 0xFFF ∧ (15 : Reg) ≤ 15 ∧ (indexed 0x0FF0#16).cfg.iIncrement = true) ∧
    ((indexed 0x0FFF#16).i.toNat + (0 : Reg).val ≤ 0xFFF ∧
      (toggled (indexed 0x0FFF#16) true true false).cfg.iIncrement = false) ∧
    0xFFF < (indexed 0x0FF1#16).i.toNat + (15 : Reg).val ∧ 0xFFF < (indexed 0x1000#16).i.toNat + (0 : Reg).val := by decide

/-- O28, both clauses at their bounds. -/
theorem witness_DecimalStoreRule :
    (({ State.reset with i := 0x0FFD#16 } : State).mem.wf State.reset.cfg.resetByte = true ∧
      ({ State.reset with i := 0x0FFD#16 } : State).i.toNat + 2 ≤ 0xFFF) ∧
    0xFFF < ({ State.reset with i := 0x0FFE#16 } : State).i.toNat + 2 := by decide

/-- A machine about to draw one row `80` at the origin. -/
def drawing (fb : Framebuffer) : State := { State.reset.pokeBytes 0x300 [0x80#8] with i := 0x0300#16, fb := fb }

theorem covers_origin (fb : Framebuffer) : SpriteCovers (drawing fb) 0 0 1 0 0 := by
  refine ⟨0, 0, by decide, by decide, ?_, rfl, rfl⟩
  show ((State.reset.pokeBytes 0x300 [0x80#8]).peek 0x300).getLsbD 7 = true
  decide

theorem covers_only_origin {fb : Framebuffer} {row : Fin 32} {col : Fin 64} (h : SpriteCovers (drawing fb) 0 0 1 row col) :
    row = 0 ∧ col = 0 := by
  obtain ⟨r, c, hr, hc, hb, hrow, hcol⟩ := h
  obtain rfl : r = 0 := by omega
  have hc0 : ∀ c < 8, (0x80#8).getLsbD (7 - c) = true → c = 0 := by decide
  obtain rfl := hc0 c hc hb
  exact ⟨Fin.ext hrow.symm, Fin.ext hcol.symm⟩

/-- O32, each clause: the three bounds, a covered pixel that is set, and no covered pixel set. -/
theorem witness_DrawRule :
    (indexed 0x0FF1#16).i.toNat + 15 ≤ 0x1000 ∧ 0x1000 < (indexed 0x0FF2#16).i.toNat + 15 ∧
    0x1000 < (indexed 0x1000#16).i.toNat + 1 ∧
    (∃ row col, SpriteCovers (drawing (screen [(0, 0)])) 0 0 1 row col ∧
      (drawing (screen [(0, 0)])).fb.pixel row col = true) ∧
    (∀ row col, SpriteCovers (drawing Framebuffer.blank) 0 0 1 row col →
      (drawing Framebuffer.blank).fb.pixel row col = false) ∧ ¬ SpriteCovers (drawing Framebuffer.blank) 0 0 1 5 5 := by
  refine ⟨by decide, by decide, by decide, ⟨0, 0, covers_origin _, by decide⟩, fun row col h => ?_, fun h => ?_⟩
  · obtain ⟨rfl, rfl⟩ := covers_only_origin h
    decide
  · exact absurd (covers_only_origin h).1 (by decide)

/-- O33: the second draw right after the first. -/
theorem witness_DrawTwiceRestores : ∃ t, exec (.drw 0 0 1) (drawing Framebuffer.blank) = .next t ∧
    t.fb = t.fb ∧ t.i = (drawing Framebuffer.blank).i ∧
    (∀ k, k < 1 → t.peek ((drawing Framebuffer.blank).i.toNat + k) =
      (drawing Framebuffer.blank).peek ((drawing Framebuffer.blank).i.toNat + k)) ∧
    t.reg 0 = (drawing Framebuffer.blank).reg 0 :=
  ⟨_, rfl, rfl, rfl, fun _ _ => rfl, rfl⟩

/-- O35, both clauses: only a held key, and the keys 0 and 15 newly down. -/
theorem witness_KeyWaitPollRule :
    ((waiting 0x0008#16 0x0008#16).mode = .awaitingKey ∧ ∀ k, ¬ NewlyDown (waiting 0x0008#16 0x0008#16) k) ∧
    NewlyDown (waiting 0 0x8001#16) 0 ∧ NewlyDown (waiting 0 0x8000#16) 15 ∧
    ∀ j : Key, j < 15 → ¬ NewlyDown (waiting 0 0x8000#16) j := by
  unfold NewlyDown
  decide

/-- O36. -/
theorem witness_WaitHoldsWhileTimersRun :
    (waiting 0 0).mode = .awaitingKey ∧ (∀ k, ¬ NewlyDown (waiting 0 0) k) ∧
    ∀ a ∈ [Transaction.step, .tickTimers, .step], a = .step ∨ a = .tickTimers := by
  unfold NewlyDown
  decide

/-- O40, O41: an instruction of each shape of the rule completes. -/
theorem witness_ProgramCounterRule :
    (∃ t, exec .ret { State.reset with sp := 16 } = .next t) ∧ (∃ t, exec (.jpV0 0xFFF#12) State.reset = .next t) ∧
    (∃ t, exec (.call 0#12) State.reset = .next t) ∧ (∃ t, exec (.skp 0) State.reset = .next t) ∧
    (∃ t, exec (.ldVxK 0) State.reset = .next t) ∧ (∃ t, exec (.addReg 0 1) State.reset = .next t) ∧
    ({ State.reset with pc := 0x0FFE#16 } : State).pc.toNat ≤ 0xFFE :=
  ⟨⟨_, rfl⟩, ⟨_, rfl⟩, ⟨_, rfl⟩, ⟨_, rfl⟩, ⟨_, rfl⟩, ⟨_, rfl⟩, by decide⟩

/-- O41: a register that the row does not name. -/
theorem witness_RegistersWrittenOnlyAsListed : (∃ t, exec (.load 14) State.reset = .next t) ∧
    ¬ writtenRegs State.reset.cfg (.load 14) 15 ∧ ¬ writtenRegs State.reset.cfg (.addI 0) 15 :=
  ⟨⟨_, rfl⟩, by simp [writtenRegs], fun h => absurd h.1 (by decide)⟩

/-- The instruction about to run is one. -/
theorem aboutToRun_unique {s : State} {i j : Instr} (h : decodeWord (s.peekWord s.pc.toNat) = .ok i) (h' : AboutToRun s j) :
    j = i := by
  have := h'.2.symm.trans h
  cases this
  rfl

/-- The reset machine about to run `00E0`. -/
def clsNext : State := State.reset.withFetchWord 16 0x00E0

/-- The reset machine, its delay timer at 9, about to run `F107`. -/
def readTimerNext : State := ({ State.reset with dt := 9#8 } : State).withFetchWord 16 0xF107

theorem clsNext_runs {i : Instr} (h : AboutToRun clsNext i) : i = .cls := aboutToRun_unique rfl h

/-- O42 to O44: a step that runs no writer of memory, of the stack, of the timers, of I; and one that runs no writer of
the screen. -/
theorem witness_WriterRules :
    (∃ t, step clsNext = .next t) ∧ (∀ x, ¬ AboutToRun clsNext (.ldB x) ∧ ¬ AboutToRun clsNext (.dump x)) ∧
    (¬ AboutToRun clsNext .ret ∧ ∀ nnn, ¬ AboutToRun clsNext (.call nnn)) ∧
    (∀ x, ¬ AboutToRun clsNext (.ldDtVx x)) ∧ (∀ x, ¬ AboutToRun clsNext (.ldStVx x)) ∧
    (∀ nnn, ¬ AboutToRun clsNext (.ldI nnn)) ∧ (∀ x, ¬ AboutToRun clsNext (.addI x) ∧ ¬ AboutToRun clsNext (.ldF x)) ∧
    (∀ x, ¬ AboutToRun clsNext (.dump x) ∧ ¬ AboutToRun clsNext (.load x)) ∧
    (∀ x nn, ¬ AboutToRun clsNext (.rnd x nn)) ∧
    (∃ t, step readTimerNext = .next t) ∧ ¬ AboutToRun readTimerNext .cls ∧
    (∀ x y n, ¬ AboutToRun readTimerNext (.drw x y n)) := by
  have other : ∀ {i}, AboutToRun readTimerNext i → i = .ldVxDt 1 := fun h => aboutToRun_unique rfl h
  refine ⟨⟨_, rfl⟩, fun x => ⟨fun h => ?_, fun h => ?_⟩, ⟨fun h => ?_, fun n h => ?_⟩, fun x h => ?_, fun x h => ?_,
    fun n h => ?_, fun x => ⟨fun h => ?_, fun h => ?_⟩, fun x => ⟨fun h => ?_, fun h => ?_⟩, fun x n h => ?_, ⟨_, rfl⟩,
    fun h => ?_, fun x y n h => ?_⟩
  all_goals first | exact absurd (clsNext_runs h) (by simp) | exact absurd (other h) (by simp)

/-- O44: a step that starts a wait, one that ends it, and a transaction that is no `configure`. -/
theorem witness_InputsAndModeWriters :
    (∃ t, step (State.reset.withFetchWord 16 0xF10A) = .next t ∧ t.mode = .awaitingKey) ∧
    (∃ t, step (waiting 0 0x8000#16) = .next t ∧ t.mode = .running) ∧
    (∃ t r, transact State.reset .tickTimers = .ok (t, r) ∧ ∀ cfg, Transaction.tickTimers ≠ .configure cfg) :=
  ⟨⟨_, rfl, rfl⟩, ⟨_, rfl, rfl⟩, ⟨_, _, rfl, fun _ h => by cases h⟩⟩

/-- O45, both clauses: a nested balanced sequence that runs. -/
theorem witness_BalancedCallsRestoreTheStack :
    Balanced [.ldImm 0 1#8, .call 0x300#12, .cls, .ret] ∧
    (∃ t, execAll [.ldImm 0 1#8, .call 0x300#12, .cls, .ret] { State.reset with sp := 14 } = .next t) ∧
    (∃ t, execAll (.call 0x400#12 :: [.ldImm 0 1#8, .call 0x300#12, .cls, .ret] ++ [.ret]) { State.reset with sp := 14 } =
      .next t) := by
  refine ⟨?_, ⟨_, rfl⟩, ⟨_, rfl⟩⟩
  refine .plain (by simp) (by simp) (.nest (body := [.cls]) ?_ .nil)
  exact .plain (by simp) (by simp) .nil

/-- O46, O48: the invariant holds of a waiting machine with an entry on its stack, which steps. -/
theorem witness_InvariantKeptByStep :
    State.Inv { waiting 0 0x8000#16 with sp := 1, stack := State.reset.stack.set 0 0x1000#16 } ∧
    ∃ t, step { waiting 0 0x8000#16 with sp := 1, stack := State.reset.stack.set 0 0x1000#16 } = .next t := by
  refine ⟨⟨by decide, by decide, by decide, fun _ => by decide⟩, _, rfl⟩

/-- O48: a run from boot with every agent in it. -/
theorem witness_InvariantInEveryRun : ∃ s rs, transactAll (State.resetWith Config.standard 0)
    [.configure { Config.standard with iIncrement := false }, .reset, .loadRom [0xF1#8, 0x0A#8] 0x200, .step, .tickTimers,
     .setKey 3 true, .step, .soundActive] = .ok (s, rs) ∧ s.mode = .running :=
  ⟨_, _, rfl, rfl⟩

/-- O49: a machine after a RET, and one whose stale stack entry and idle latch differ. -/
theorem witness_StaleStateIsUnobservable :
    SameObservable clsNext { clsNext with stack := clsNext.stack.set 0 0x0ABC#16, waitX := 7, kprev := 0xFFFF#16 } ∧
    (∃ t, step clsNext = .next t) ∧
    SameObservable State.reset { State.reset with waitX := 7 } ∧ step State.reset = .fault .invalidOpcode :=
  ⟨⟨rfl, fun k hk => absurd hk (Nat.not_lt_zero _), fun h => by cases h⟩, ⟨_, rfl⟩,
    ⟨rfl, fun _ _ => rfl, fun h => by cases h⟩, rfl⟩

/-- O50, O51: a machine about to run an instruction that uses neither timers nor keys, and a dead one. -/
theorem witness_Commutations :
    (∀ i, AboutToRun clsNext i → ¬ usesTimers i) ∧ (∀ i, AboutToRun clsNext i → ¬ readsKeys i) ∧
    clsNext.mode = .running ∧ (∃ t, step clsNext = .next t) ∧
    (∀ i, AboutToRun State.reset i → ¬ usesTimers i ∧ ¬ readsKeys i) ∧ step State.reset = .fault .invalidOpcode := by
  refine ⟨fun i h => ?_, fun i h => ?_, rfl, ⟨_, rfl⟩, fun i h => ?_, rfl⟩
  · rw [clsNext_runs h]; simp [usesTimers]
  · rw [clsNext_runs h]; simp [readsKeys]
  · have e : decodeWord (State.reset.peekWord State.reset.pc.toNat) = .error .invalidOpcode := rfl
    cases e.symm.trans h.2

/-- O52. -/
theorem witness_EqualMemoriesAreEqualData :
    Memory.wf Config.standard.resetByte [(0x050, 0x00#8), (0xFFF, 0x01#8)] = true := by decide

/-- O53, at the last addresses it allows. -/
theorem witness_StoreIsSeenByTheNextFetch :
    let s : State := { State.reset with pc := 0x0FFC#16, i := 0x0FFE#16 }
    s.mem.wf s.cfg.resetByte = true ∧ 1 ≤ (1 : Reg).val ∧ s.pc.toNat % 2 = 0 ∧ s.pc.toNat + 2 ≤ 0xFFE ∧
      s.i.toNat = s.pc.toNat + 2 ∧ s.i.toNat + (1 : Reg).val ≤ 0xFFF := by decide

/-- O56, each clause at its bounds, and a machine that is not freshly reset. -/
theorem witness_LoadRomRule : State.reset.isFresh = true ∧ State.isFresh { State.reset with dt := 1#8 } = false ∧
    (0x200 ≤ 0x200 ∧ (List.replicate 0xE00 0x00#8).length ≤ 0x1000 - 0x200) ∧
    (0xFFF ≤ 0xFFF ∧ ([0xAB#8] : List Byte).length ≤ 0x1000 - 0xFFF) ∧
    0x1000 - 0x200 < (List.replicate 0xE01 0x00#8).length := by
  refine ⟨by decide, by decide, ⟨by omega, ?_⟩, ⟨by omega, by decide⟩, ?_⟩
  · exact List.length_replicate.le
  · exact Nat.lt_of_lt_of_eq (by omega) List.length_replicate.symm

/-- O57. -/
theorem witness_MemoryAfterBoot : ∃ s, boot Config.standard [0x12#8, 0x00#8] 0x200 = .ok s := ⟨_, rfl⟩

/-- O58: the last key and the first index that names none. -/
theorem witness_SetKeyRule : 15 < 16 ∧ 16 ≤ 16 := by decide

/-- O60: the self-jump at 0xFFE, and a run of every kind of transaction. -/
theorem witness_EndedRunStaysEnded :
    (({ State.reset with pc := 0x0FFE#16 } : State).withFetchWord 16 0x1FFE).ended = true ∧
    ∃ s rs, transactAll (({ State.reset with pc := 0x0FFE#16 } : State).withFetchWord 16 0x1FFE)
      [.step, .tickTimers, .setKey 0 true, .framebufferSnapshot, .soundActive] = .ok (s, rs) :=
  ⟨by decide, _, _, rfl⟩

end Sys2Proof.Tests
end

/-!
PROOFS. What each instruction, each step and each transaction leaves of the parts no instruction computes with: the
keys, the configuration, the draw counter and the key wait (spec/00_scope.md R6, spec/30_encoding.md R80).
-/

namespace Sys2Proof.Machine

/-! ### The instructions that can raise: when they complete, and with what state -/

section Completion

variable {s t : State}

theorem execRet_eq_next : execRet s = .next t ↔
    ∃ h : 0 < s.sp.val,
      t = ({ s with sp := ⟨s.sp.val - 1, by omega⟩ } : State).jump s.stack[s.sp.val - 1] := by
  unfold execRet
  split
  · next hp => simp [raise, State.pop_eq_none.1 hp]
  · next w u hp =>
    obtain ⟨hsp, rfl, rfl⟩ := State.pop_eq_some.1 hp
    simp [hsp, eq_comm]

theorem execCall_eq_next {nnn : BitVec 12} : execCall nnn s = .next t ↔
    ∃ h : s.sp.val < 16,
      t = ({ s with stack := s.stack.set s.sp.val (s.pc + 2#16), sp := ⟨s.sp.val + 1, by omega⟩ } : State).jump
        (nnn.zeroExtend 16) := by
  unfold execCall
  split
  · next hp =>
    have full : s.sp.val = 16 := State.push_eq_none.1 hp
    simp only [raise, reduceCtorEq, false_iff]
    rintro ⟨room, -⟩
    omega
  · next u hp =>
    obtain ⟨hsp, rfl⟩ := State.push_eq_some.1 hp
    simp [hsp, eq_comm]

theorem execDrw_eq_next {x y : Reg} {n : Nat} : execDrw x y n s = .next t ↔
    spriteFits s.i.toNat n = true ∧
      t = ((s.setScreen (s.drawSprite x y n).fb).setFlag (s.drawSprite x y n).hit).advance := by
  unfold execDrw
  split
  · next fits => simp [fits, eq_comm]
  · next beyond => simp [raise, beyond]

theorem execLdB_eq_next {x : Reg} : execLdB x s = .next t ↔
    rangeFits s.i.toNat 2 = true ∧ t = (s.pokeBytes s.i.toNat (decimalDigits (s.reg x))).advance := by
  unfold execLdB
  split
  · next fits => simp [fits, eq_comm]
  · next beyond => simp [raise, beyond]

theorem execDump_eq_next {x : Reg} : execDump x s = .next t ↔
    rangeFits s.i.toNat x.val = true ∧
      t = ((s.pokeBytes s.i.toNat (s.regsTo x)).setIndex (s.indexAfter x)).advance := by
  unfold execDump
  split
  · next fits => simp [fits, eq_comm]
  · next beyond => simp [raise, beyond]

theorem execLoad_eq_next {x : Reg} : execLoad x s = .next t ↔
    rangeFits s.i.toNat x.val = true ∧
      t = (State.setIndex { s with v := s.regsLoaded x } (s.indexAfter x)).advance := by
  unfold execLoad
  split
  · next fits => simp [fits, eq_comm]
  · next beyond => simp [raise, beyond]

/-- A load of an image that fits stores it and moves PC to it; every other load raises (R243). -/
theorem State.loadRom_eq_ok {bytes : List Byte} {addr : Nat} : s.loadRom bytes addr = .ok t ↔
    0x200 ≤ addr ∧ addr ≤ 0xFFF ∧ bytes.length ≤ 0x1000 - addr ∧
      t = (s.pokeBytes addr bytes).jump (BitVec.ofNat 16 addr) := by
  unfold State.loadRom
  split
  · next outside =>
    simp only [reduceCtorEq, false_iff]
    rintro ⟨lo, hi, -⟩
    omega
  · next inside =>
    split
    · next long =>
      simp only [reduceCtorEq, false_iff]
      rintro ⟨-, -, fits, -⟩
      omega
    · next fits =>
      simp only [Except.ok.injEq]
      constructor
      · rintro rfl
        exact ⟨by omega, by omega, by omega, rfl⟩
      · rintro ⟨-, -, -, rfl⟩
        rfl

/-- A `step` transaction answers the next state, or on an error the state it began in (R221). -/
theorem stepResponse_eq_ok {res : Result} {r : Response} : stepResponse s res = .ok (t, r) ↔
    (res = .next t ∧ r = .ok) ∨ ∃ k, res = .fault k ∧ t = s ∧ r = .error k := by
  cases res with
  | next u => simp [stepResponse, eq_comm]
  | fault k => simp [stepResponse, eq_comm]
  | refused e => simp [stepResponse]

end Completion

/-! ### The frame of every instruction -/

/-- The wait, the keys, the configuration and the draw counter are as before. -/
structure SameControl (s t : State) : Prop where
  wait : SameWait s t
  inputs : SameInputs s t
  draws : t.draws = s.draws

section Frame

variable {s t : State} {i : Instr}

/-- An update that writes data fields only (registers, I, PC, the stack, the timers, the screen, memory). -/
theorem SameControl.of_data_write (v : Vector Byte 16) (i pc : Word) (sp : Fin 17) (stack : Vector Word 16)
    (dt st : Byte) (fb : Framebuffer) (mem : Memory) :
    SameControl s { s with v, i, pc, sp, stack, dt, st, fb, mem } :=
  ⟨⟨rfl, rfl, rfl⟩, ⟨rfl, rfl⟩, rfl⟩

/-- ADD I writes data fields only, whichever way its toggle stands. -/
theorem sameControl_of_execAddI {x : Reg} (h : execAddI x s = .next t) : SameControl s t := by
  unfold execAddI at h
  cases h
  split <;> exact .of_data_write ..

/-- Every instruction but RND (R161) and LD Vx, K (R182) writes data fields only. -/
theorem sameControl_of_exec (h : exec i s = .next t) (notRnd : ∀ x nn, i ≠ .rnd x nn) (notWait : ∀ x, i ≠ .ldVxK x) :
    SameControl s t := by
  cases i
  case rnd x nn => exact absurd rfl (notRnd x nn)
  case ldVxK x => exact absurd rfl (notWait x)
  case addI x => exact sameControl_of_execAddI h
  case ret => obtain ⟨-, rfl⟩ := execRet_eq_next.1 h; exact .of_data_write ..
  case call nnn => obtain ⟨-, rfl⟩ := execCall_eq_next.1 h; exact .of_data_write ..
  case drw x y n => obtain ⟨-, rfl⟩ := execDrw_eq_next.1 h; exact .of_data_write ..
  case ldB x => obtain ⟨-, rfl⟩ := execLdB_eq_next.1 h; exact .of_data_write ..
  case dump x => obtain ⟨-, rfl⟩ := execDump_eq_next.1 h; exact .of_data_write ..
  case load x => obtain ⟨-, rfl⟩ := execLoad_eq_next.1 h; exact .of_data_write ..
  all_goals cases h; exact .of_data_write ..

/-- What any instruction that completes leaves: the inputs always, the draw counter unless it is RND, the wait unless
it is LD Vx, K. -/
theorem exec_control_frame (h : exec i s = .next t) :
    SameInputs s t ∧ ((∀ x nn, i ≠ .rnd x nn) → t.draws = s.draws) ∧ ((∀ x, i ≠ .ldVxK x) → SameWait s t) := by
  by_cases isRnd : ∃ x nn, i = .rnd x nn
  · obtain ⟨x, nn, rfl⟩ := isRnd
    cases h
    exact ⟨⟨rfl, rfl⟩, fun other => absurd rfl (other x nn), fun _ => ⟨rfl, rfl, rfl⟩⟩
  by_cases isWait : ∃ x, i = .ldVxK x
  · obtain ⟨x, rfl⟩ := isWait
    cases h
    exact ⟨⟨rfl, rfl⟩, fun _ => rfl, fun other => absurd rfl (other x)⟩
  have same : SameControl s t :=
    sameControl_of_exec h (fun x nn e => isRnd ⟨x, nn, e⟩) (fun x e => isWait ⟨x, e⟩)
  exact ⟨same.inputs, fun _ => same.draws, fun _ => same.wait⟩

/-! ### The frame of a poll and of a step -/

theorem newlyDown_iff_newKeys {k : Key} : NewlyDown s k ↔ s.newKeys.getLsbD k.val = true := by
  simp [NewlyDown, State.newKeys]

theorem pollKey_sameInputs (s : State) : SameInputs s s.pollKey := by
  obtain ⟨-, e⟩ | ⟨k, -, e⟩ := pollKey_cases s
  · rw [e]; exact ⟨rfl, rfl⟩
  · rw [e]; exact ⟨State.endWait_keys s k, State.endWait_cfg s k⟩

theorem pollKey_draws (s : State) : s.pollKey.draws = s.draws := by
  obtain ⟨-, e⟩ | ⟨k, -, e⟩ := pollKey_cases s
  · rw [e]
  · rw [e, State.endWait_draws]

/-- A poll that changes MODE saw a newly pressed key (R183). -/
theorem newlyDown_of_pollKey_mode_ne (h : s.pollKey.mode ≠ s.mode) : ∃ k, NewlyDown s k := by
  obtain ⟨-, e⟩ | ⟨k, least, -⟩ := pollKey_cases s
  · exact absurd (by rw [e]) h
  · exact ⟨k, newlyDown_iff_newKeys.2 (leastKey_eq_some.1 least).1⟩

theorem step_sameInputs (h : step s = .next t) : SameInputs s t := by
  obtain ⟨-, rfl⟩ | ⟨-, -, -, i, -, he⟩ := step_next_cases h
  · exact pollKey_sameInputs s
  · obtain ⟨inputs, -⟩ := exec_control_frame he
    exact inputs

theorem step_draws_of_not_rnd (h : step s = .next t) (notRnd : ∀ x nn, ¬ AboutToRun s (.rnd x nn)) :
    t.draws = s.draws := by
  obtain ⟨-, rfl⟩ | ⟨running, -, -, i, hi, he⟩ := step_next_cases h
  · exact pollKey_draws s
  · obtain ⟨-, draws, -⟩ := exec_control_frame he
    exact draws fun x nn e => notRnd x nn ⟨running, e ▸ hi⟩

/-- A step begins a wait by LD Vx, K only (R182). -/
theorem aboutToRun_ldVxK_of_step_waits (h : step s = .next t) (before : s.mode = .running)
    (after : t.mode = .awaitingKey) : ∃ x, AboutToRun s (.ldVxK x) := by
  obtain ⟨waiting, -⟩ | ⟨-, -, -, i, hi, he⟩ := step_next_cases h
  · simp [before] at waiting
  · by_contra noWait
    obtain ⟨-, -, wait⟩ := exec_control_frame he
    obtain ⟨mode, -⟩ := wait fun x e => noWait ⟨x, before, e ▸ hi⟩
    simp [before, after] at mode

/-- A step ends a wait by a newly pressed key only (R183). -/
theorem newlyDown_of_step_ends_wait (h : step s = .next t) (before : s.mode = .awaitingKey)
    (after : t.mode = .running) : ∃ k, NewlyDown s k := by
  obtain ⟨-, rfl⟩ | ⟨running, -⟩ := step_next_cases h
  · exact newlyDown_of_pollKey_mode_ne (by simp [before, after])
  · simp [before] at running

/-! ### The configuration under the transactions -/

theorem loadRom_cfg {bytes : List Byte} {addr : Nat} (h : s.loadRom bytes addr = .ok t) : t.cfg = s.cfg := by
  obtain ⟨-, -, -, rfl⟩ := State.loadRom_eq_ok.1 h
  rfl

/-- Only `configure` changes the configuration (R6, R213). -/
theorem transact_cfg {a : Transaction} {r : Response} (h : transact s a = .ok (t, r))
    (notConfigure : ∀ cfg, a ≠ .configure cfg) : t.cfg = s.cfg := by
  cases a with
  | configure cfg => exact absurd rfl (notConfigure cfg)
  | loadRom bytes addr =>
    simp only [transact] at h
    split at h
    · split at h
      · next u loaded => cases h; exact loadRom_cfg loaded
      · cases h; rfl
    · cases h
  | step =>
    obtain ⟨stepped, -⟩ | ⟨k, -, rfl, -⟩ := stepResponse_eq_ok.1 h
    · exact (step_sameInputs stepped).2
    · rfl
  | setKey index pressed =>
    simp only [transact] at h
    split at h
    · cases h; rfl
    · cases h
  | reset | tickTimers | framebufferSnapshot | soundActive => cases h; rfl

end Frame

/-- Settles O44: every clause is a frame of `exec` or of the poll, lifted to `step` by `step_next_cases`; the last one
goes through the transactions one by one. -/
theorem inputsAndModeWriters : Obligations.InputsAndModeWriters :=
  ⟨fun _ _ h => ⟨step_sameInputs h, step_draws_of_not_rnd h, aboutToRun_ldVxK_of_step_waits h,
    newlyDown_of_step_ends_wait h⟩, fun _ _ _ _ h notConfigure => transact_cfg h notConfigure⟩

end Sys2Proof.Machine

/-!
PROOFS. The invariant of every run, first for a step and then for every transaction, and the rules about the state it
rests on: the outcomes of a step, which instruction writes which part, what no step reads, and memory as data
(spec/10_state.md, spec/60_exceptions.md R217, spec/70_reset_and_hazards.md R244).
-/

namespace Sys2Proof.Machine

/-! ### The instructions with two outcomes, outcome by outcome -/

section TwoOutcomes

variable {s t : State}

theorem execRet_of_empty (empty : s.sp.val = 0) : execRet s = .fault .stackUnderflow := by
  simp [execRet, State.pop_eq_none.2 empty, raise]

theorem execCall_of_full {nnn : BitVec 12} (full : s.sp.val = 16) : execCall nnn s = .fault .stackOverflow := by
  simp [execCall, State.push_eq_none.2 full, raise]

theorem execAddI_eq_ite (x : Reg) (s : State) : execAddI x s =
    if s.cfg.iOverflowSetsVf then
      .next ((s.setIndex (s.i + (s.reg x).zeroExtend 16)).setFlag (indexOverflow s.i (s.reg x))).advance
    else .next (s.setIndex (s.i + (s.reg x).zeroExtend 16)).advance := by
  unfold execAddI
  split <;> rfl

theorem execAddI_cases {x : Reg} (h : execAddI x s = .next t) :
    (s.cfg.iOverflowSetsVf = true ∧
      t = ((s.setIndex (s.i + (s.reg x).zeroExtend 16)).setFlag (indexOverflow s.i (s.reg x))).advance) ∨
    (s.cfg.iOverflowSetsVf ≠ true ∧ t = (s.setIndex (s.i + (s.reg x).zeroExtend 16)).advance) := by
  rw [execAddI_eq_ite] at h
  split at h <;> cases h
  · next toggle => exact .inl ⟨toggle, rfl⟩
  · next toggle => exact .inr ⟨toggle, rfl⟩

theorem pollKey_of_none (none : leastKey s.newKeys = none) : s.pollKey = { s with kprev := s.keys } := by
  simp [State.pollKey, none]

theorem pollKey_of_some {k : Key} (some : leastKey s.newKeys = some k) : s.pollKey = s.endWait k := by
  simp [State.pollKey, some]

end TwoOutcomes

/-! ### The outcomes of a step in Running mode (R80, R208) -/

section StepOutcomes

variable {s t : State} {i : Instr}

theorem decodeWord_of_decode {hi lo : Byte} {rest rest' : List Byte} (h : decode (hi :: lo :: rest) = .ok (i, rest')) :
    decodeWord (wordOfBytes hi lo) = .ok i := by
  rw [decode] at h
  cases word : decodeWord (wordOfBytes hi lo) with
  | error e => rw [word] at h; cases h
  | ok j => rw [word] at h; cases h; rfl

theorem step_of_fetch_error {k : Fault} (running : s.mode = .running) (fetch : s.fetch = .error k) :
    step s = .fault k := by
  simp [step, running, fetch, raise]

theorem step_of_decode_error {op : Word} {e : DecodeError} (running : s.mode = .running) (fetch : s.fetch = .ok op)
    (decoded : decodeWord op = .error e) : step s = .fault .invalidOpcode := by
  simp [step, running, fetch, decoded, raise]

theorem step_of_decode_ok {op : Word} (running : s.mode = .running) (fetch : s.fetch = .ok op)
    (decoded : decodeWord op = .ok i) : step s = exec i s := by
  simp [step, running, fetch, decoded]

theorem step_of_waiting (waiting : s.mode = .awaitingKey) : step s = .next s.pollKey := by
  simp [step, waiting]

/-- A running core faults at the fetch, faults at the decode, or executes an instruction, in this order. -/
theorem fetch_decode_cases (s : State) :
    (∃ k, s.fetch = .error k) ∨
      ∃ op, s.fetch = .ok op ∧ ((∃ e, decodeWord op = .error e) ∨ ∃ i, decodeWord op = .ok i) := by
  cases s.fetch with
  | error k => exact .inl ⟨k, rfl⟩
  | ok op =>
    refine .inr ⟨op, rfl, ?_⟩
    cases decodeWord op with
    | error e => exact .inl ⟨e, rfl⟩
    | ok i => exact .inr ⟨i, rfl⟩

theorem aboutToRun_of_fetch {op : Word} (running : s.mode = .running) (fetch : s.fetch = .ok op)
    (decoded : decodeWord op = .ok i) : AboutToRun s i := by
  obtain ⟨-, -, rfl⟩ := State.fetch_eq_ok.1 fetch
  exact ⟨running, decoded⟩

/-- An error of a step comes from the fetch, from the decode or from the instruction, in Running mode. -/
theorem step_fault_cases {k : Fault} (h : step s = .fault k) :
    s.mode = .running ∧
      (s.fetch = .error k ∨ k = .invalidOpcode ∨ ∃ i, AboutToRun s i ∧ exec i s = .fault k) := by
  cases hm : s.mode with
  | awaitingKey => simp [step_of_waiting hm] at h
  | running =>
    refine ⟨rfl, ?_⟩
    obtain ⟨f, hf⟩ | ⟨op, hf, ⟨e, hd⟩ | ⟨i, hd⟩⟩ := fetch_decode_cases s
    · cases (step_of_fetch_error hm hf).symm.trans h
      exact .inl hf
    · cases (step_of_decode_error hm hf hd).symm.trans h
      exact .inr (.inl rfl)
    · exact .inr (.inr ⟨i, aboutToRun_of_fetch hm hf hd, (step_of_decode_ok hm hf hd).symm.trans h⟩)

theorem fault_of_execRet {k : Fault} (h : execRet s = .fault k) : k = .stackUnderflow := by
  unfold execRet at h
  split at h <;> cases h
  rfl

theorem fault_of_execCall {nnn : BitVec 12} {k : Fault} (h : execCall nnn s = .fault k) : k = .stackOverflow := by
  unfold execCall at h
  split at h <;> cases h
  rfl

/-- The shape of the four instructions with a bounds test: one test, one kind. -/
theorem fault_of_guarded {fits : Bool} {f k : Fault}
    (h : (if fits then Host.Outcome.next t else raise f) = (.fault k : Result)) : k = f := by
  split at h <;> cases h
  rfl

/-- An instruction raises a stack error or a bounds error only (R201 to R203). -/
theorem exec_fault_kind {k : Fault} (h : exec i s = .fault k) :
    k = .stackOverflow ∨ k = .stackUnderflow ∨ k = .memoryOutOfBounds := by
  cases i
  case ret => exact .inr (.inl (fault_of_execRet h))
  case call nnn => exact .inl (fault_of_execCall h)
  case drw | ldB | dump | load => exact .inr (.inr (fault_of_guarded h))
  all_goals cases h

/-- MisalignedPC comes from the parity test of the fetch (R204). -/
theorem step_misaligned_iff :
    step s = .fault .misalignedPC ↔ s.mode = .running ∧ s.pc.toNat ≤ 0xFFE ∧ s.pc.toNat % 2 = 1 := by
  constructor
  · intro h
    obtain ⟨running, fetch | ⟨⟨⟩⟩ | ⟨i, -, he⟩⟩ := step_fault_cases h
    · obtain ⟨⟨⟩, -⟩ | ⟨-, inBounds, odd⟩ := State.fetch_eq_error.1 fetch
      exact ⟨running, inBounds, odd⟩
    · simpa using exec_fault_kind he
  · rintro ⟨running, inBounds, odd⟩
    exact step_of_fetch_error running (State.fetch_eq_error.2 (.inr ⟨rfl, inBounds, odd⟩))

end StepOutcomes

/-- Settles O8: PC passes both fetch tests, so the step reaches `exec` with the state it began in. -/
theorem stepRunsTheDecodedInstruction : Obligations.StepRunsTheDecodedInstruction := by
  intro s i running even inBounds decoded
  exact step_of_decode_ok running (State.fetch_eq_ok.2 ⟨inBounds, even, rfl⟩) (decodeWord_of_decode decoded)

/-- Settles O9: bounds, then parity, in Running mode only. -/
theorem fetchTestsInOrder : Obligations.FetchTestsInOrder := by
  intro s
  refine ⟨fun running beyond => ?_, step_misaligned_iff, fun waiting => ⟨_, step_of_waiting waiting⟩,
    fun t running h => ?_⟩
  · exact step_of_fetch_error running (State.fetch_eq_error.2 (.inl ⟨rfl, beyond⟩))
  · obtain ⟨waiting, -⟩ | ⟨-, inBounds, even, -⟩ := step_next_cases h
    · simp [running] at waiting
    · exact ⟨inBounds, even⟩

/-! ### What each instruction writes -/

/-- The writers of each part of the state (R22, R25 to R28, R50): a part changes only where the core `ran` one of the
instructions named. -/
structure WritesAsListed (ran : Instr → Prop) (s t : State) : Prop where
  memory : (∀ x, ¬ ran (.ldB x) ∧ ¬ ran (.dump x)) → t.mem = s.mem
  screen : ¬ ran .cls → (∀ x y n, ¬ ran (.drw x y n)) → t.fb = s.fb
  stack : ¬ ran .ret → (∀ nnn, ¬ ran (.call nnn)) → t.sp = s.sp ∧ t.stack = s.stack
  delay : (∀ x, ¬ ran (.ldDtVx x)) → t.dt = s.dt
  sound : (∀ x, ¬ ran (.ldStVx x)) → t.st = s.st
  index : (∀ nnn, ¬ ran (.ldI nnn)) → (∀ x, ¬ ran (.addI x) ∧ ¬ ran (.ldF x)) →
    (s.cfg.iIncrement = true → ∀ x, ¬ ran (.dump x) ∧ ¬ ran (.load x)) → t.i = s.i

section Writers

variable {s t : State} {i : Instr}

theorem WritesAsListed.mono {ran ran' : Instr → Prop} (w : WritesAsListed ran s t) (le : ∀ j, ran j → ran' j) :
    WritesAsListed ran' s t where
  memory h := w.memory fun x => ⟨fun r => (h x).1 (le _ r), fun r => (h x).2 (le _ r)⟩
  screen h h' := w.screen (fun r => h (le _ r)) fun x y n r => h' x y n (le _ r)
  stack h h' := w.stack (fun r => h (le _ r)) fun nnn r => h' nnn (le _ r)
  delay h := w.delay fun x r => h x (le _ r)
  sound h := w.sound fun x r => h x (le _ r)
  index h h' h'' := w.index (fun nnn r => h nnn (le _ r))
    (fun x => ⟨fun r => (h' x).1 (le _ r), fun r => (h' x).2 (le _ r)⟩)
    fun inc x => ⟨fun r => (h'' inc x).1 (le _ r), fun r => (h'' inc x).2 (le _ r)⟩

/-- A transfer leaves I when `i_increment` is clear (R154, R155); the other exceptions have no condition. -/
theorem exec_writesAsListed (h : exec i s = .next t) : WritesAsListed (· = i) s t := by
  cases i
  case ret => obtain ⟨-, rfl⟩ := execRet_eq_next.1 h; constructor <;> simp
  case call nnn => obtain ⟨-, rfl⟩ := execCall_eq_next.1 h; constructor <;> simp
  case drw x y n => obtain ⟨-, rfl⟩ := execDrw_eq_next.1 h; constructor <;> simp
  case ldB x => obtain ⟨-, rfl⟩ := execLdB_eq_next.1 h; constructor <;> simp
  case dump x =>
    obtain ⟨-, rfl⟩ := execDump_eq_next.1 h
    constructor <;> simp +contextual [State.indexAfter]
  case load x =>
    obtain ⟨-, rfl⟩ := execLoad_eq_next.1 h
    constructor <;> simp +contextual [State.indexAfter]
  case addI x => obtain ⟨-, rfl⟩ | ⟨-, rfl⟩ := execAddI_cases h <;> constructor <;> simp
  all_goals cases h; constructor <;> simp

theorem pollKey_writesAsListed (s : State) : WritesAsListed (fun _ => False) s s.pollKey := by
  obtain ⟨-, e⟩ | ⟨k, -, e⟩ := pollKey_cases s
  all_goals rw [e]; constructor <;> simp

theorem step_writesAsListed (h : step s = .next t) : WritesAsListed (AboutToRun s) s t := by
  obtain ⟨-, rfl⟩ | ⟨running, -, -, i, hi, he⟩ := step_next_cases h
  · exact (pollKey_writesAsListed s).mono fun _ => False.elim
  · exact (exec_writesAsListed he).mono fun _ e => e ▸ ⟨running, hi⟩

/-- Memory is read through the configuration, which no step writes. -/
theorem sameMemory_of_step (h : step s = .next t) (mem : t.mem = s.mem) : SameMemory s t := by
  obtain ⟨-, cfg⟩ := step_sameInputs h
  intro a
  rw [State.peek, State.peek, mem, cfg]

end Writers

/-- Settles O42: the writers of memory and of the screen. -/
theorem memoryAndScreenWriters : Obligations.MemoryAndScreenWriters := by
  intro s t h
  have writes := step_writesAsListed h
  refine ⟨fun noStore => sameMemory_of_step h (writes.memory noStore), fun noCls noDrw row col => ?_⟩
  rw [writes.screen noCls noDrw]

/-- Settles O43: the writers of the stack, the timers and I. -/
theorem stackIndexAndTimerWriters : Obligations.StackIndexAndTimerWriters := by
  intro s t h
  have writes := step_writesAsListed h
  refine ⟨fun noRet noCall => ?_, writes.delay, writes.sound, writes.index⟩
  obtain ⟨sp, stack⟩ := writes.stack noRet noCall
  exact ⟨sp, fun k => by rw [stack]⟩

/-! ### The general registers (R20) -/

section Registers

variable {s t : State} {i : Instr}

theorem SameRegsBut.of_v {written : Reg → Prop} (v : t.v = s.v) : SameRegsBut written s t := by
  intro r _
  rw [State.reg, State.reg, v]

theorem sameRegsBut_setReg (s : State) (x : Reg) (b : Byte) : SameRegsBut (fun r => r = x) s (s.setReg x b) :=
  fun _ other => s.reg_setReg_other b other

theorem sameRegsBut_setResult (s : State) (x : Reg) (b : Byte) (f : Bool) :
    SameRegsBut (fun r => r = x ∨ r = 15) s (s.setResult x b f) := by
  intro r other
  obtain ⟨notX, notFlag⟩ := not_or.1 other
  exact (State.reg_setReg_other _ _ notFlag).trans (s.reg_setReg_other b notX)

/-- LD Vx, [I] leaves the registers above Vx (R155). -/
theorem State.getElem_regsLoaded_above {x r : Reg} (above : ¬ r ≤ x) : (s.regsLoaded x)[r.val] = s.reg r := by
  simp [State.regsLoaded, State.reg, above]

/-- ADD I writes VF only, and only with its toggle set (R151). -/
theorem sameRegsBut_of_execAddI {x : Reg} (h : execAddI x s = .next t) :
    SameRegsBut (fun r => s.cfg.iOverflowSetsVf = true ∧ r = 15) s t := by
  obtain ⟨toggle, rfl⟩ | ⟨-, rfl⟩ := execAddI_cases h
  · exact fun r other => State.reg_setReg_other _ _ fun flag => other ⟨toggle, flag⟩
  · exact .of_v rfl

end Registers

/-- Settles O41: an instruction writes one register, or a result and the flag, or none; DRW, ADD I and LD Vx, [I] have
their own rules. -/
theorem registersWrittenOnlyAsListed : Obligations.RegistersWrittenOnlyAsListed := by
  intro i s t h
  cases i
  case drw x y n => obtain ⟨-, rfl⟩ := execDrw_eq_next.1 h; exact fun r other => State.reg_setReg_other _ _ other
  case addI x => exact sameRegsBut_of_execAddI h
  case load x => obtain ⟨-, rfl⟩ := execLoad_eq_next.1 h; exact fun r above => State.getElem_regsLoaded_above above
  case ret => obtain ⟨-, rfl⟩ := execRet_eq_next.1 h; exact .of_v rfl
  case call nnn => obtain ⟨-, rfl⟩ := execCall_eq_next.1 h; exact .of_v rfl
  case ldB x => obtain ⟨-, rfl⟩ := execLdB_eq_next.1 h; exact .of_v rfl
  case dump x => obtain ⟨-, rfl⟩ := execDump_eq_next.1 h; exact .of_v rfl
  case addReg | subReg | shr | subnReg | shl => cases h; exact sameRegsBut_setResult s _ _ _
  case ldImm | addImm | rnd | ldVxDt | ldReg | orReg | andReg | xorReg => cases h; exact sameRegsBut_setReg _ _ _
  all_goals cases h; exact .of_v rfl

/-! ### Which words start a key wait -/

section Decoder

variable {op : Word} {x : Reg}

theorem decodeAlu_ne_ldVxK : decodeAlu op ≠ .ok (.ldVxK x) := by
  unfold decodeAlu
  split <;> simp

theorem decodeF_eq_ldVxK (h : decodeF op = .ok (.ldVxK x)) : opNN op = 0x0A#8 ∧ x = opX op := by
  unfold decodeF at h
  split at h <;> cases h
  next low => exact ⟨low, rfl⟩

/-- Only family F holds LD Vx, K (R74). -/
theorem decodeWord_eq_ldVxK (h : decodeWord op = .ok (.ldVxK x)) :
    opTop op = 0xF#4 ∧ opNN op = 0x0A#8 ∧ x = opX op := by
  unfold decodeWord at h
  split at h
  case h_9 => exact absurd h decodeAlu_ne_ldVxK
  case h_16 h0 h1 h2 h3 h4 h5 h6 h7 h8 h9 hA hB hC hD hE =>
    exact ⟨top_is_F h0 h1 h2 h3 h4 h5 h6 h7 h8 h9 hA hB hC hD hE, decodeF_eq_ldVxK h⟩
  all_goals (repeat' split at h) <;> cases h

theorem eq_encode_of_decodeWord_ldVxK (h : decodeWord op = .ok (.ldVxK x)) : op = encode (.ldVxK x) := by
  obtain ⟨top, low, rfl⟩ := decodeWord_eq_ldVxK h
  rw [encode, ← top, ← low, formatX_fields]

end Decoder

/-! ### The invariant under one instruction -/

section Invariant

variable {s t : State} {i : Instr}

/-- The invariant speaks of these parts of the state alone. -/
theorem State.Inv.congr (inv : s.Inv) (mem : t.mem = s.mem) (cfg : t.cfg = s.cfg) (sp : t.sp = s.sp)
    (stack : t.stack = s.stack) (pc : t.pc = s.pc) (mode : t.mode = s.mode) (waitX : t.waitX = s.waitX) : t.Inv where
  memory := by rw [mem, cfg]; exact inv.memory
  returns := by rw [sp, stack]; exact inv.returns
  target := by rw [pc]; exact inv.target
  waiting := by simp only [mode, pc, waitX, State.peekWord, State.peek, mem, cfg]; exact inv.waiting

/-- The stores test their range first, so they stay inside the address space (R156). -/
theorem exec_keeps_wf (h : exec i s = .next t) (wf : s.mem.wf s.cfg.resetByte = true) :
    t.mem.wf t.cfg.resetByte = true := by
  obtain ⟨⟨-, cfg⟩, -⟩ := exec_control_frame h
  by_cases store : ∃ x, i = .ldB x ∨ i = .dump x
  · obtain ⟨x, rfl | rfl⟩ := store
    · obtain ⟨fits, rfl⟩ := execLdB_eq_next.1 h
      have := rangeFits_iff.1 fits
      exact s.wf_pokeBytes wf _ _ (by rw [length_decimalDigits]; omega)
    · obtain ⟨fits, rfl⟩ := execDump_eq_next.1 h
      have := rangeFits_iff.1 fits
      exact s.wf_pokeBytes wf _ _ (by rw [State.length_regsTo]; omega)
  · have noStore : ∀ x, ¬ .ldB x = i ∧ ¬ .dump x = i :=
      fun x => ⟨fun e => store ⟨x, .inl e.symm⟩, fun e => store ⟨x, .inr e.symm⟩⟩
    rw [(exec_writesAsListed h).memory noStore, cfg]
    exact wf

/-- What may stand in a stack entry in use: the address after a CALL, even and at most 0x1000 (R100). -/
def IsReturnAddress (w : Word) : Prop := w.toNat % 2 = 0 ∧ w.toNat ≤ 0x1000

theorem isReturnAddress_add_two {pc : Word} (inBounds : pc.toNat ≤ 0xFFE) (even : pc.toNat % 2 = 0) :
    IsReturnAddress (pc + 2#16) := by
  have sum : (pc + 2#16).toNat = pc.toNat + 2 := by rw [BitVec.toNat_add]; simp; omega
  constructor <;> omega

/-- RET drops an entry, CALL adds a return address, and nothing else touches the stack (R100, R102). -/
theorem exec_keeps_returns (h : exec i s = .next t) (inBounds : s.pc.toNat ≤ 0xFFE) (even : s.pc.toNat % 2 = 0)
    (returns : ∀ k : Fin 16, k.val < s.sp.val → IsReturnAddress s.stack[k.val]) (k : Fin 16) (used : k.val < t.sp.val) :
    IsReturnAddress t.stack[k.val] := by
  by_cases isRet : .ret = i
  · subst isRet
    obtain ⟨inUse, rfl⟩ := execRet_eq_next.1 h
    have below : k.val < s.sp.val - 1 := used
    exact returns k (by omega)
  by_cases isCall : ∃ nnn, .call nnn = i
  · obtain ⟨nnn, rfl⟩ := isCall
    obtain ⟨room, rfl⟩ := execCall_eq_next.1 h
    have upTo : k.val < s.sp.val + 1 := used
    by_cases top : s.sp.val = k.val
    · simpa [top] using isReturnAddress_add_two inBounds even
    · simpa [Vector.getElem_set_ne, top] using returns k (by omega)
  · obtain ⟨sp, stack⟩ := (exec_writesAsListed h).stack isRet fun nnn e => isCall ⟨nnn, e⟩
    rw [sp] at used
    simpa only [stack] using returns k used

theorem toNat_zeroExtend_le (nnn : BitVec 12) : (nnn.zeroExtend 16).toNat ≤ 0xFFF := by
  have := nnn.isLt
  simp; omega

/-- The highest PC is that of JP V0: 0xFFF + 0xFF (R24). -/
theorem toNat_add_offset_le (nnn : BitVec 12) (b : Byte) : (nnn.zeroExtend 16 + b.zeroExtend 16).toNat ≤ 0x10FE := by
  have := nnn.isLt
  have := b.isLt
  simp [BitVec.toNat_add]; omega

theorem toNat_add_two_le {pc : Word} (inBounds : pc.toNat ≤ 0xFFE) : (pc + 2#16).toNat ≤ 0x10FE := by
  rw [BitVec.toNat_add]; simp; omega

theorem toNat_skip_le {pc : Word} (inBounds : pc.toNat ≤ 0xFFE) (c : Bool) :
    (if c then pc + 4#16 else pc + 2#16).toNat ≤ 0x10FE := by
  cases c <;> simp [BitVec.toNat_add] <;> omega

/-- Where an instruction can send PC (R24, R81). -/
theorem exec_pc_le (h : exec i s = .next t) (inBounds : s.pc.toNat ≤ 0xFFE)
    (returns : ∀ k : Fin 16, k.val < s.sp.val → IsReturnAddress s.stack[k.val]) : t.pc.toNat ≤ 0x10FE := by
  cases i
  case jp nnn => cases h; exact (toNat_zeroExtend_le nnn).trans (by omega)
  case jpV0 nnn => cases h; exact toNat_add_offset_le nnn _
  case call nnn => obtain ⟨-, rfl⟩ := execCall_eq_next.1 h; exact (toNat_zeroExtend_le nnn).trans (by omega)
  case ret =>
    obtain ⟨inUse, rfl⟩ := execRet_eq_next.1 h
    obtain ⟨-, low⟩ := returns ⟨s.sp.val - 1, by omega⟩ (show s.sp.val - 1 < s.sp.val by omega)
    exact low.trans (by omega)
  case ldVxK x => cases h; exact inBounds.trans (by omega)
  case seImm | sneImm | seReg | sneReg | skp | sknp => cases h; exact toNat_skip_le inBounds _
  case drw => obtain ⟨-, rfl⟩ := execDrw_eq_next.1 h; exact toNat_add_two_le inBounds
  case ldB => obtain ⟨-, rfl⟩ := execLdB_eq_next.1 h; exact toNat_add_two_le inBounds
  case dump => obtain ⟨-, rfl⟩ := execDump_eq_next.1 h; exact toNat_add_two_le inBounds
  case load => obtain ⟨-, rfl⟩ := execLoad_eq_next.1 h; exact toNat_add_two_le inBounds
  case addI x => obtain ⟨-, rfl⟩ | ⟨-, rfl⟩ := execAddI_cases h <;> exact toNat_add_two_le inBounds
  all_goals cases h; exact toNat_add_two_le inBounds

/-- An instruction that leaves the core waiting is the LD Vx, K at PC (R182). -/
theorem exec_keeps_waiting (runs : AboutToRun s i) (h : exec i s = .next t) (inBounds : s.pc.toNat ≤ 0xFFE)
    (even : s.pc.toNat % 2 = 0) (waits : t.mode = .awaitingKey) :
    t.pc.toNat ≤ 0xFFE ∧ t.pc.toNat % 2 = 0 ∧ t.peekWord t.pc.toNat = encode (.ldVxK t.waitX) := by
  obtain ⟨running, decoded⟩ := runs
  by_cases isWait : ∃ x, i = .ldVxK x
  · obtain ⟨x, rfl⟩ := isWait
    cases h
    exact ⟨inBounds, even, eq_encode_of_decodeWord_ldVxK decoded⟩
  · obtain ⟨-, -, sameWait⟩ := exec_control_frame h
    obtain ⟨mode, -⟩ := sameWait fun x e => isWait ⟨x, e⟩
    simp [mode, running] at waits

theorem inv_exec (inv : s.Inv) (runs : AboutToRun s i) (inBounds : s.pc.toNat ≤ 0xFFE) (even : s.pc.toNat % 2 = 0)
    (h : exec i s = .next t) : t.Inv where
  memory := exec_keeps_wf h inv.memory
  returns := exec_keeps_returns h inBounds even inv.returns
  target := exec_pc_le h inBounds inv.returns
  waiting := exec_keeps_waiting runs h inBounds even

/-- A poll leaves the wait as it is, or ends it and moves past the LD Vx, K (R183). -/
theorem inv_pollKey (inv : s.Inv) (waits : s.mode = .awaitingKey) : s.pollKey.Inv := by
  obtain ⟨-, e⟩ | ⟨k, -, e⟩ := pollKey_cases s
  · rw [e]; exact inv.congr rfl rfl rfl rfl rfl rfl rfl
  · obtain ⟨inBounds, -⟩ := inv.waiting waits
    rw [e]
    exact ⟨inv.memory, inv.returns, toNat_add_two_le inBounds, fun running => by simp at running⟩

theorem inv_step (inv : s.Inv) (h : step s = .next t) : t.Inv := by
  obtain ⟨waits, rfl⟩ | ⟨running, inBounds, even, i, hi, he⟩ := step_next_cases h
  · exact inv_pollKey inv waits
  · exact inv_exec inv ⟨running, hi⟩ inBounds even he

end Invariant

/-- Settles O46: a poll and an instruction each keep the four clauses of the invariant. -/
theorem invariantKeptByStep : Obligations.InvariantKeptByStep := fun _ _ => inv_step

/-! ### The invariant under the transactions -/

section Transactions

variable {s t : State}

theorem inv_resetWith (cfg : Config) (n : Nat) : (State.resetWith cfg n).Inv where
  memory := rfl
  returns _ used := absurd used (Nat.not_lt_zero _)
  target := (by decide : (0x0200#16).toNat ≤ 0x10FE)
  waiting running := by simp at running

theorem State.isFresh_iff : s.isFresh = true ↔ s = State.resetWith s.cfg s.draws := by simp [State.isFresh]

/-- Everything an accepted transaction can make of the state. -/
theorem transact_cases {a : Transaction} {r : Response} (h : transact s a = .ok (t, r)) :
    t = s ∨ (∃ cfg n, t = State.resetWith cfg n) ∨
      (∃ bytes addr, s.isFresh = true ∧ s.loadRom bytes addr = .ok t) ∨ step s = .next t ∨
      t = s.tickTimers ∨ ∃ k p, t = s.setKey k p := by
  cases a with
  | configure cfg =>
    simp only [transact] at h
    split at h <;> cases h
    exact .inr (.inl ⟨_, _, rfl⟩)
  | reset => cases h; exact .inr (.inl ⟨_, _, rfl⟩)
  | loadRom bytes addr =>
    simp only [transact] at h
    split at h
    · next fresh =>
      split at h <;> cases h
      · next loaded => exact .inr (.inr (.inl ⟨bytes, addr, fresh, loaded⟩))
      · exact .inl rfl
    · cases h
  | step =>
    obtain ⟨stepped, -⟩ | ⟨k, -, rfl, -⟩ := stepResponse_eq_ok.1 h
    · exact .inr (.inr (.inr (.inl stepped)))
    · exact .inl rfl
  | tickTimers => cases h; exact .inr (.inr (.inr (.inr (.inl rfl))))
  | setKey index pressed =>
    simp only [transact] at h
    split at h <;> cases h
    exact .inr (.inr (.inr (.inr (.inr ⟨_, _, rfl⟩))))
  | framebufferSnapshot | soundActive => cases h; exact .inl rfl

/-- What every transaction of a list keeps, the list keeps. -/
theorem transactAll_keeps {P : State → Prop} {ts : List Transaction}
    (keeps : ∀ a ∈ ts, ∀ {s t r}, P s → transact s a = .ok (t, r) → P t) {rs : List Response} (start : P s)
    (h : transactAll s ts = .ok (t, rs)) : P t := by
  induction ts generalizing s rs with
  | nil => cases h; exact start
  | cons a ts ih =>
    simp only [transactAll] at h
    split at h
    · cases h
    · next s' r one =>
      split at h <;> cases h
      next rest =>
      exact ih (fun b later => keeps b (.tail a later)) (keeps a (.head ts) start one) rest

/-- A loaded image lies inside the address space, and the machine that loads it is running (R243). -/
theorem inv_loadRom {bytes : List Byte} {addr : Nat} (inv : s.Inv) (fresh : s.isFresh = true)
    (h : s.loadRom bytes addr = .ok t) : t.Inv := by
  have running : s.mode = .running := by rw [State.isFresh_iff.1 fresh]; rfl
  obtain ⟨-, high, fits, rfl⟩ := State.loadRom_eq_ok.1 h
  refine ⟨s.wf_pokeBytes inv.memory addr bytes (by omega), inv.returns, ?_, fun waits => ?_⟩
  · simp; omega
  · simp [running] at waits

theorem inv_transact {a : Transaction} {r : Response} (inv : s.Inv) (h : transact s a = .ok (t, r)) : t.Inv := by
  obtain rfl | ⟨cfg, n, rfl⟩ | ⟨bytes, addr, fresh, loaded⟩ | stepped | rfl | ⟨k, p, rfl⟩ := transact_cases h
  · exact inv
  · exact inv_resetWith cfg n
  · exact inv_loadRom inv fresh loaded
  · exact inv_step inv stepped
  · exact inv.congr rfl rfl rfl rfl rfl rfl rfl
  · exact inv.congr rfl rfl rfl rfl rfl rfl rfl

end Transactions

/-- Settles O48: every transaction keeps the invariant, reset establishes it, and a run is a list of transactions. -/
theorem invariantInEveryRun : Obligations.InvariantInEveryRun :=
  ⟨fun _ _ _ _ => inv_transact,
    fun cfg _ _ _ h => transactAll_keeps (fun _ _ _ _ _ => inv_transact) (inv_resetWith cfg 0) h⟩

/-! ### Two states that differ in what is never read -/

/-- Two results are alike: the same error, or next states that differ at most in what is never read. -/
inductive Result.Alike : Result → Result → Prop where
  | next {t w : State} (same : SameObservable t w) : Result.Alike (.next t) (.next w)
  | fault (k : Fault) : Result.Alike (.fault k) (.fault k)

section Alike

variable {s u : State} {i : Instr}

theorem Result.Alike.exists_next {t : State} {r : Result} (h : Result.Alike (.next t) r) :
    ∃ w, r = .next w ∧ SameObservable t w := by
  cases h with
  | next same => exact ⟨_, rfl, same⟩

theorem Result.Alike.eq_fault {k : Fault} {r : Result} (h : Result.Alike (.fault k) r) : r = .fault k := by
  cases h
  rfl

theorem Result.Alike.ite {a b c d : Result} {p : Prop} [Decidable p] (yes : Result.Alike a c) (no : Result.Alike b d) :
    Result.Alike (if p then a else b) (if p then c else d) := by
  split
  · exact yes
  · exact no

theorem SameObservable.exists_stale (same : SameObservable s u) :
    ∃ stack waitX kprev, u = { s with stack, waitX, kprev } ∧
      (∀ k : Fin 16, k.val < s.sp.val → stack[k.val] = s.stack[k.val]) ∧
      (s.mode = .awaitingKey → waitX = s.waitX ∧ kprev = s.kprev) :=
  ⟨_, _, _, same.visible, same.entries, same.waiting⟩

/-- The same write to both sides leaves them alike. -/
theorem SameObservable.data_write (same : SameObservable s u) (v : Vector Byte 16) (i pc : Word) (dt st : Byte)
    (fb : Framebuffer) (mem : Memory) (draws : Nat) :
    SameObservable { s with v, i, pc, dt, st, fb, mem, draws } { u with v, i, pc, dt, st, fb, mem, draws } := by
  obtain ⟨stack, waitX, kprev, rfl, entries, waiting⟩ := same.exists_stale
  exact ⟨rfl, entries, waiting⟩

/-- RET reads the entry below SP, which both sides share (R25, R100). -/
theorem execRet_alike (same : SameObservable s u) : Result.Alike (execRet s) (execRet u) := by
  obtain ⟨stack, waitX, kprev, rfl, entries, waiting⟩ := same.exists_stale
  obtain empty | inUse := Nat.eq_zero_or_pos s.sp.val
  · rw [execRet_of_empty empty, execRet_of_empty (s := { s with stack, waitX, kprev }) empty]
    exact .fault _
  · have top : stack[s.sp.val - 1] = s.stack[s.sp.val - 1] :=
      entries ⟨s.sp.val - 1, by omega⟩ (Nat.sub_lt inUse Nat.one_pos)
    rw [execRet_eq_next.2 ⟨inUse, rfl⟩, execRet_eq_next (s := { s with stack, waitX, kprev }).2 ⟨inUse, rfl⟩]
    simp only [top]
    refine .next ⟨rfl, fun k used => entries k ?_, waiting⟩
    have below : k.val < s.sp.val - 1 := used
    omega

/-- CALL writes the entry at SP on both sides alike (R25, R102). -/
theorem execCall_alike (same : SameObservable s u) (nnn : BitVec 12) :
    Result.Alike (execCall nnn s) (execCall nnn u) := by
  obtain ⟨stack, waitX, kprev, rfl, entries, waiting⟩ := same.exists_stale
  obtain room | full := Nat.lt_or_eq_of_le (Nat.le_of_lt_succ s.sp.isLt)
  · rw [execCall_eq_next.2 ⟨room, rfl⟩, execCall_eq_next (s := { s with stack, waitX, kprev }).2 ⟨room, rfl⟩]
    refine .next ⟨rfl, fun k used => ?_, waiting⟩
    have upTo : k.val < s.sp.val + 1 := used
    by_cases top : s.sp.val = k.val
    · simp [top]
    · simpa [Vector.getElem_set_ne, top] using entries k (by omega)
  · rw [execCall_of_full full, execCall_of_full (s := { s with stack, waitX, kprev }) full]
    exact .fault _

/-- LD Vx, K latches the same on both sides (R182). -/
theorem execLdVxK_alike (same : SameObservable s u) (x : Reg) :
    Result.Alike (execLdVxK x s) (execLdVxK x u) := by
  obtain ⟨stack, waitX, kprev, rfl, entries, -⟩ := same.exists_stale
  exact .next ⟨rfl, entries, fun _ => ⟨rfl, rfl⟩⟩

/-- Every other instruction makes the same write, or the same error, of both sides. -/
theorem exec_alike (same : SameObservable s u) : Result.Alike (exec i s) (exec i u) := by
  have write := fun v i pc dt st fb mem draws => Result.Alike.next (same.data_write v i pc dt st fb mem draws)
  cases i
  case ret => exact execRet_alike same
  case call nnn => exact execCall_alike same nnn
  case ldVxK x => exact execLdVxK_alike same x
  all_goals obtain ⟨stack, waitX, kprev, rfl, -, -⟩ := same.exists_stale
  case drw x y n =>
    have drawn := State.drawSprite_congr (s := s) (t := { s with stack, waitX, kprev }) rfl rfl rfl rfl rfl x y n
    simp only [exec, execDrw, drawn]
    exact .ite (write ..) (.fault _)
  case addI x =>
    simp only [exec, execAddI_eq_ite]
    exact .ite (write ..) (write ..)
  case ldB | dump | load => exact .ite (write ..) (.fault _)
  all_goals exact write ..

/-- A poll reads the latch, which both sides share while they wait (R183). -/
theorem pollKey_alike (same : SameObservable s u) (waits : s.mode = .awaitingKey) :
    SameObservable s.pollKey u.pollKey := by
  obtain ⟨stack, waitX, kprev, rfl, entries, waiting⟩ := same.exists_stale
  obtain ⟨rfl, rfl⟩ := waiting waits
  cases least : leastKey s.newKeys with
  | none =>
    rw [pollKey_of_none least, pollKey_of_none (s := { s with stack }) least]
    exact ⟨rfl, entries, fun _ => ⟨rfl, rfl⟩⟩
  | some k =>
    rw [pollKey_of_some least, pollKey_of_some (s := { s with stack }) least]
    exact ⟨rfl, entries, fun _ => ⟨rfl, rfl⟩⟩

/-- The fetch reads PC, memory and the configuration alone. -/
theorem State.fetch_congr (pc : u.pc = s.pc) (mem : u.mem = s.mem) (cfg : u.cfg = s.cfg) : u.fetch = s.fetch := by
  simp only [State.fetch, State.peekWord, State.peek, pc, mem, cfg]

theorem step_alike (same : SameObservable s u) : Result.Alike (step s) (step u) := by
  have mode : u.mode = s.mode := by rw [same.visible]
  have fetch : u.fetch = s.fetch := by rw [same.visible]; exact State.fetch_congr rfl rfl rfl
  cases hm : s.mode with
  | awaitingKey =>
    rw [step_of_waiting hm, step_of_waiting (mode.trans hm)]
    exact .next (pollKey_alike same hm)
  | running =>
    have hm' := mode.trans hm
    obtain ⟨f, hf⟩ | ⟨op, hf, ⟨e, hd⟩ | ⟨i, hd⟩⟩ := fetch_decode_cases s
    · rw [step_of_fetch_error hm hf, step_of_fetch_error hm' (fetch.trans hf)]
      exact .fault f
    · rw [step_of_decode_error hm hf hd, step_of_decode_error hm' (fetch.trans hf) hd]
      exact .fault _
    · rw [step_of_decode_ok hm hf hd, step_of_decode_ok hm' (fetch.trans hf) hd]
      exact exec_alike same

end Alike

/-- Settles O49: a step reads the stack below SP only, and the latch only while it waits. -/
theorem staleStateIsUnobservable : Obligations.StaleStateIsUnobservable :=
  fun _ _ same => ⟨fun _ stepped => (stepped ▸ step_alike same).exists_next,
    fun _ faulted => (faulted ▸ step_alike same).eq_fault⟩

/-! ### A key event and an instruction that reads no key -/

/-- A change of the next state; an error or a refusal is as before. -/
def Result.mapNext (f : State → State) : Result → Result
  | .next t => .next (f t)
  | .fault k => .fault k
  | .refused r => .refused r

section KeyEvent

variable {s : State} {i : Instr} (k : Key) (p : Bool)

theorem Result.mapNext_ite {f : State → State} {a b : Result} {c : Prop} [Decidable c] :
    Result.mapNext f (if c then a else b) = if c then Result.mapNext f a else Result.mapNext f b :=
  apply_ite ..

theorem execRet_setKey : execRet (s.setKey k p) = Result.mapNext (·.setKey k p) (execRet s) := by
  obtain empty | inUse := Nat.eq_zero_or_pos s.sp.val
  · rw [execRet_of_empty empty, execRet_of_empty (s := s.setKey k p) empty]
    rfl
  · rw [execRet_eq_next.2 ⟨inUse, rfl⟩, execRet_eq_next (s := s.setKey k p).2 ⟨inUse, rfl⟩]
    rfl

theorem execCall_setKey (nnn : BitVec 12) :
    execCall nnn (s.setKey k p) = Result.mapNext (·.setKey k p) (execCall nnn s) := by
  obtain room | full := Nat.lt_or_eq_of_le (Nat.le_of_lt_succ s.sp.isLt)
  · rw [execCall_eq_next.2 ⟨room, rfl⟩, execCall_eq_next (s := s.setKey k p).2 ⟨room, rfl⟩]
    rfl
  · rw [execCall_of_full full, execCall_of_full (s := s.setKey k p) full]
    rfl

theorem exec_setKey (noKey : ¬ readsKeys i) : exec i (s.setKey k p) = Result.mapNext (·.setKey k p) (exec i s) := by
  cases i
  case skp x => exact absurd ⟨x, .inl rfl⟩ noKey
  case sknp x => exact absurd ⟨x, .inr (.inl rfl)⟩ noKey
  case ldVxK x => exact absurd ⟨x, .inr (.inr rfl)⟩ noKey
  case ret => exact execRet_setKey k p
  case call nnn => exact execCall_setKey k p nnn
  case drw x y n =>
    have drawn := State.drawSprite_congr (s := s) (t := s.setKey k p) rfl rfl rfl rfl rfl x y n
    simp only [exec, execDrw, drawn, Result.mapNext_ite]
    rfl
  case addI x =>
    simp only [exec, execAddI_eq_ite, Result.mapNext_ite]
    rfl
  case ldB | dump | load =>
    simp only [exec, execLdB, execDump, execLoad, Result.mapNext_ite]
    rfl
  all_goals rfl

theorem step_setKey (running : s.mode = .running) (noKey : ∀ i, AboutToRun s i → ¬ readsKeys i) :
    step (s.setKey k p) = Result.mapNext (·.setKey k p) (step s) := by
  have fetch : (s.setKey k p).fetch = s.fetch := State.fetch_congr rfl rfl rfl
  obtain ⟨f, hf⟩ | ⟨op, hf, ⟨e, hd⟩ | ⟨i, hd⟩⟩ := fetch_decode_cases s
  · rw [step_of_fetch_error running hf, step_of_fetch_error (s := s.setKey k p) running (fetch.trans hf)]
    rfl
  · rw [step_of_decode_error running hf hd, step_of_decode_error (s := s.setKey k p) running (fetch.trans hf) hd]
    rfl
  · rw [step_of_decode_ok running hf hd, step_of_decode_ok (s := s.setKey k p) running (fetch.trans hf) hd]
    exact exec_setKey k p (noKey i (aboutToRun_of_fetch running hf hd))

end KeyEvent

/-- Settles O51: an instruction that reads no key commutes with a key event, and so do the fetch and the decode. -/
theorem keysReadOnlyByKeyInstructions : Obligations.KeysReadOnlyByKeyInstructions := by
  intro s k p running noKey
  rw [step_setKey k p running noKey]
  exact ⟨fun _ stepped => by rw [stepped, Result.mapNext], fun _ faulted => by rw [faulted, Result.mapNext]⟩

/-! ### Memory as data (R31, R50) -/

section Memory

variable {bg : Nat → Byte} {lo : Nat}

theorem Memory.wfFrom_cons {k : Nat} {b : Byte} {m : Memory} : Memory.wfFrom bg lo ((k, b) :: m) = true ↔
    lo ≤ k ∧ k < 0x1000 ∧ b ≠ bg k ∧ Memory.wfFrom bg (k + 1) m = true := by
  simp [Memory.wfFrom, and_assoc]

theorem Memory.read_cons_self (k : Nat) (b : Byte) (m : Memory) : Memory.read bg ((k, b) :: m) k = b := by
  simp [Memory.read]

theorem Memory.read_cons_of_ne {a k : Nat} (b : Byte) (m : Memory) (ne : a ≠ k) :
    Memory.read bg ((k, b) :: m) a = Memory.read bg m a := by
  simp [Memory.read, ne]

/-- The first listed address reads as it does in no memory whose listed addresses are all higher. -/
theorem Memory.read_first_ne {k : Nat} {b : Byte} {m m' : Memory} (wf : Memory.wfFrom bg lo ((k, b) :: m) = true)
    (higher : Memory.wfFrom bg (k + 1) m' = true) : Memory.read bg ((k, b) :: m) k ≠ Memory.read bg m' k := by
  obtain ⟨-, -, listed, -⟩ := Memory.wfFrom_cons.1 wf
  rwa [Memory.read_cons_self, Memory.read_below higher (Nat.lt_succ_self k)]

/-- Canonical memories that read alike are equal: their first addresses agree, then their first bytes, then what
follows. -/
theorem Memory.eq_of_read_eq {m m' : Memory} (wf : Memory.wfFrom bg lo m = true) (wf' : Memory.wfFrom bg lo m' = true)
    (same : ∀ a, a < 0x1000 → Memory.read bg m a = Memory.read bg m' a) : m = m' := by
  induction m generalizing lo m' with
  | nil =>
    cases m' with
    | nil => rfl
    | cons c' m' =>
      obtain ⟨-, high, -⟩ := Memory.wfFrom_cons.1 wf'
      exact absurd (same c'.1 high).symm (Memory.read_first_ne (m' := []) wf' rfl)
  | cons c m ih =>
    obtain ⟨k, b⟩ := c
    obtain ⟨-, high, -, tail⟩ := Memory.wfFrom_cons.1 wf
    cases m' with
    | nil => exact absurd (same k high) (Memory.read_first_ne (m' := []) wf rfl)
    | cons c' m' =>
      obtain ⟨k', b'⟩ := c'
      obtain ⟨-, high', listed', tail'⟩ := Memory.wfFrom_cons.1 wf'
      obtain below | rfl | above := Nat.lt_trichotomy k k'
      · have higher := Memory.wfFrom_cons.2 ⟨below, high', listed', tail'⟩
        exact absurd (same k high) (Memory.read_first_ne wf higher)
      · have byte : b = b' := by simpa only [Memory.read_cons_self] using same k high
        have rest : m = m' := ih tail tail' fun a inside => by
          obtain rfl | ne := eq_or_ne a k
          · rw [Memory.read_below tail (Nat.lt_succ_self a), Memory.read_below tail' (Nat.lt_succ_self a)]
          · simpa only [Memory.read_cons_of_ne _ _ ne] using same a inside
        rw [byte, rest]
      · obtain ⟨-, -, listed, -⟩ := Memory.wfFrom_cons.1 wf
        have higher := Memory.wfFrom_cons.2 ⟨above, high, listed, tail⟩
        exact absurd (same k' high').symm (Memory.read_first_ne wf' higher)

end Memory

/-- Settles O52: the whole memory is canonical from address 0 on. -/
theorem equalMemoriesAreEqualData : Obligations.EqualMemoriesAreEqualData :=
  fun _ _ _ wf wf' same => Memory.eq_of_read_eq wf wf' fun a inside => same a (Nat.le_of_lt_succ inside)

/-! ### The reset contents (R31, R64) -/

theorem resetByte_font (c : Config) (k : Fin 80) : c.resetByte (0x50 + k.val) = c.fontTable[k.val] := by
  have inFont : 0x050 ≤ 0x50 + k.val ∧ 0x50 + k.val < 0x0A0 := by omega
  simp [Config.resetByte, inFont]

theorem resetByte_outside_font (c : Config) {a : Nat} (outside : a < 0x50 ∨ 0x9F < a) : c.resetByte a = 0x00#8 := by
  have notFont : ¬ (0x050 ≤ a ∧ a < 0x0A0) := by omega
  simp [Config.resetByte, notFont]

/-- Settles O54: the reset machine lists no byte, so it reads as its reset contents. -/
theorem resetMemoryImage : Obligations.ResetMemoryImage :=
  fun s => ⟨s.resetTransaction, rfl, resetByte_font s.cfg, fun _ _ => resetByte_outside_font s.cfg⟩

end Sys2Proof.Machine

/-!
PROOFS. Memory and its addressing: when an indexed access raises, a store over the next instruction, and the glyph
address (spec/20_memory.md, spec/44_index_memory.md).
-/

namespace Sys2Proof.Machine

/-! ### The bounds errors of the indexed accesses (R60, R203) -/

section BoundsErrors

variable {s t : State} {i : Instr}

/-- An instruction with a bounds test raises exactly when the test fails. -/
theorem guarded_eq_fault_iff {fits : Bool} {f : Fault} :
    (if fits then Host.Outcome.next t else raise f) = (.fault f : Result) ↔ fits = false := by
  cases fits <;> simp [raise]

theorem rangeFits_eq_false_iff {a last : Nat} : rangeFits a last = false ↔ 0xFFF < a + last := by
  rw [← Bool.not_eq_true, rangeFits_iff, Nat.not_le]

/-- A sprite of no rows fits everywhere (D15). -/
theorem spriteFits_eq_false_iff {a n : Nat} : spriteFits a n = false ↔ 0 < n ∧ 0x1000 < a + n := by
  rw [spriteFits, Bool.or_eq_false_iff, rangeFits_eq_false_iff, beq_eq_false_iff_ne]
  omega

theorem execDrw_outOfBounds_iff {x y : Reg} {n : Nat} :
    execDrw x y n s = .fault .memoryOutOfBounds ↔ 0 < n ∧ 0x1000 < s.i.toNat + n :=
  guarded_eq_fault_iff.trans spriteFits_eq_false_iff

theorem execLdB_outOfBounds_iff {x : Reg} : execLdB x s = .fault .memoryOutOfBounds ↔ 0xFFF < s.i.toNat + 2 :=
  guarded_eq_fault_iff.trans rangeFits_eq_false_iff

theorem execDump_outOfBounds_iff {x : Reg} :
    execDump x s = .fault .memoryOutOfBounds ↔ 0xFFF < s.i.toNat + x.val :=
  guarded_eq_fault_iff.trans rangeFits_eq_false_iff

theorem execLoad_outOfBounds_iff {x : Reg} :
    execLoad x s = .fault .memoryOutOfBounds ↔ 0xFFF < s.i.toNat + x.val :=
  guarded_eq_fault_iff.trans rangeFits_eq_false_iff

/-- RET and CALL raise a stack error only, and no other instruction without a bounds test raises. -/
theorem exec_outOfBounds_cases (h : exec i s = .fault .memoryOutOfBounds) :
    (∃ x y n, i = .drw x y n ∧ 0 < n ∧ 0x1000 < s.i.toNat + n) ∨
      (∃ x, i = .ldB x ∧ 0xFFF < s.i.toNat + 2) ∨
      (∃ x : Reg, (i = .dump x ∨ i = .load x) ∧ 0xFFF < s.i.toNat + x.val) := by
  cases i
  case drw x y n => exact .inl ⟨x, y, n, rfl, execDrw_outOfBounds_iff.1 h⟩
  case ldB x => exact .inr (.inl ⟨x, rfl, execLdB_outOfBounds_iff.1 h⟩)
  case dump x => exact .inr (.inr ⟨x, .inl rfl, execDump_outOfBounds_iff.1 h⟩)
  case load x => exact .inr (.inr ⟨x, .inr rfl, execLoad_outOfBounds_iff.1 h⟩)
  case ret => cases fault_of_execRet h
  case call nnn => cases fault_of_execCall h
  all_goals cases h

end BoundsErrors

/-- Settles O13: each indexed access raises exactly when its bounds test fails, and an instruction raises a stack error
or a bounds error only. -/
theorem memoryErrorsExactly : Obligations.MemoryErrorsExactly := by
  intro i s
  refine ⟨⟨exec_outOfBounds_cases, ?_⟩, fun h => ?_, fun h => ?_⟩
  · rintro (⟨x, y, n, rfl, beyond⟩ | ⟨x, rfl, beyond⟩ | ⟨x, rfl | rfl, beyond⟩)
    · exact execDrw_outOfBounds_iff.2 beyond
    · exact execLdB_outOfBounds_iff.2 beyond
    · exact execDump_outOfBounds_iff.2 beyond
    · exact execLoad_outOfBounds_iff.2 beyond
  · simpa using exec_fault_kind h
  · simpa using exec_fault_kind h

/-! ### A store and the fetch after it (R53, R63) -/

section StoreThenFetch

variable {s : State} {x : Reg}

theorem State.getElem_regsTo (k : Reg) (stored : k.val < (s.regsTo x).length) : (s.regsTo x)[k.val] = s.reg k := by
  simp [State.regsTo, State.reg]

/-- The byte of `V[k]`, where LD [I], Vx has stored it (R154). -/
theorem State.peek_pokeBytes_regsTo (wf : s.mem.wf s.cfg.resetByte = true) {a : Nat} (fits : a + x.val ≤ 0xFFF)
    {k : Reg} (le : k.val ≤ x.val) : (s.pokeBytes a (s.regsTo x)).peek (a + k.val) = s.reg k := by
  have inside : a + (s.regsTo x).length ≤ 0x1000 := by rw [State.length_regsTo]; omega
  have stored : k.val < (s.regsTo x).length := by rw [State.length_regsTo]; omega
  have offset : a + k.val - a = k.val := Nat.add_sub_cancel_left ..
  rw [State.peek_pokeBytes wf a _ inside, dif_pos ⟨Nat.le_add_right .., by rwa [offset]⟩]
  simp only [offset, State.getElem_regsTo]

/-- A PC that passes both fetch tests fetches the two bytes it points at, the first one high (R53, R80). -/
theorem State.fetch_at {a : Nat} (pc : s.pc.toNat = a) (inBounds : a ≤ 0xFFE) (even : a % 2 = 0) :
    s.fetch = .ok (wordOfBytes (s.peek a) (s.peek (a + 1))) := by
  subst pc
  exact State.fetch_eq_ok.2 ⟨inBounds, even, rfl⟩

end StoreThenFetch

/-- Settles O53: the store puts V0 and V1 where the advanced PC points, and the fetch reads memory as it stands. -/
theorem storeIsSeenByTheNextFetch : Obligations.StoreIsSeenByTheNextFetch := by
  intro x s wf two even inBounds atNext fits
  have pc : (s.pc + 2#16).toNat = s.i.toNat := by rw [BitVec.toNat_add, atNext]; simp; omega
  have high : (s.pokeBytes s.i.toNat (s.regsTo x)).peek s.i.toNat = s.reg 0 :=
    State.peek_pokeBytes_regsTo (k := 0) wf fits (Nat.zero_le _)
  have low : (s.pokeBytes s.i.toNat (s.regsTo x)).peek (s.i.toNat + 1) = s.reg 1 :=
    State.peek_pokeBytes_regsTo (k := 1) wf fits two
  refine ⟨_, _, execDump_eq_next.2 ⟨rangeFits_iff.2 fits, rfl⟩, State.fetch_at pc (by omega) (by omega), ?_⟩
  rw [wordOfBytes_toNat, State.peek_advance, State.peek_advance, State.peek_setIndex, State.peek_setIndex, high, low]

/-! ### The glyph address (R64, R152) -/

/-- A word with top digit F is read by the decoder of family `Fxnn` (R74). -/
theorem decodeWord_formatX_F (x : Reg) (kk : Byte) :
    decodeWord (formatX 0xF#4 x kk) = decodeF (formatX 0xF#4 x kk) := by
  simp [decodeWord]

theorem setsIndex_of_exec {i : Instr} {s : State} {w : Word} (h : exec i s = .next (s.setIndex w).advance) :
    SetsIndex i s w :=
  ⟨_, h, rfl, fun _ => rfl, rfl, fun _ => rfl, fun _ _ => rfl, ⟨rfl, fun _ => rfl⟩, ⟨rfl, rfl⟩, ⟨rfl, rfl, rfl⟩,
    ⟨rfl, rfl⟩, rfl⟩

/-- Settles O27: LD F writes `glyphAddress` to I, whose base is 0x50. -/
theorem glyphAddressRule : Obligations.GlyphAddressRule := by
  intro x s
  refine ⟨?_, setsIndex_of_exec rfl⟩
  rw [decodeWord_formatX_F]
  simp [decodeF]

end Sys2Proof.Machine

/-!
PROOFS. The decoder and the encoder: they are inverse to each other on well-formed instructions, the opcode table and
the table of illegal words both say which words decode, no step is refused, and PC after each instruction
(spec/30_encoding.md R70 to R83).
-/

namespace Sys2Proof.Machine

/-! ### A word from the fields that its format fixes (R72) -/

section FormatOfFields

variable {op : Word} {t k : BitVec 4} {kk : Byte}

theorem formatA_of_top (top : opTop op = t) : formatA t (opNNN op) = op := by
  rw [← top, formatA_fields]

theorem formatXI_of_top (top : opTop op = t) : formatXI t (opX op) (opNN op) = op := by
  rw [← top, formatXI_fields]

theorem formatX_of_top_low (top : opTop op = t) (low : opNN op = kk) : formatX t (opX op) kk = op := by
  rw [← top, ← low, formatX_fields]

theorem formatXY_of_top_low (top : opTop op = t) (low : opN op = k) : formatXY t (opX op) (opY op) k = op := by
  rw [← top, ← low, formatXY_fields]

end FormatOfFields

/-! ### Decoding and encoding are inverse to each other (R70, R76, R82) -/

section RoundTrip

variable {op : Word} {i : Instr}

/-- A row count that fits its digit (R73) is read back from it. -/
theorem decodeWord_encode_drw (x y : Reg) {n : Nat} (fits : n ≤ 15) :
    decodeWord (encode (.drw x y n)) = .ok (.drw x y n) := by
  have digit : n % 16 = n := Nat.mod_eq_of_lt (by omega)
  simp [encode, decodeWord, digit]

theorem decodeWord_encode (wf : i.wellFormed = true) : decodeWord (encode i) = .ok i := by
  cases i
  case cls | ret => rfl
  case drw x y n => exact decodeWord_encode_drw x y (of_decide_eq_true wf)
  case ldReg | orReg | andReg | xorReg | addReg | subReg | shr | subnReg | shl => simp [encode, decodeWord, decodeAlu]
  case ldVxDt | ldVxK | ldDtVx | ldStVx | addI | ldF | ldB | dump | load =>
    rw [encode, decodeWord_formatX_F]
    simp [decodeF]
  all_goals simp [encode, decodeWord]

/-- `i` is an instruction and `op` is its word. -/
def IsWordOf (op : Word) (i : Instr) : Prop := i.wellFormed = true ∧ encode i = op

theorem isWordOf_of_decodeAlu (top : opTop op = 0x8#4) (h : decodeAlu op = .ok i) : IsWordOf op i := by
  unfold decodeAlu at h
  split at h <;> cases h
  all_goals next low => exact ⟨rfl, formatXY_of_top_low top low⟩

theorem isWordOf_of_decodeF (top : opTop op = 0xF#4) (h : decodeF op = .ok i) : IsWordOf op i := by
  unfold decodeF at h
  split at h <;> cases h
  all_goals next low => exact ⟨rfl, formatX_of_top_low top low⟩

theorem isWordOf_drw (top : opTop op = 0xD#4) : IsWordOf op (.drw (opX op) (opY op) (opN op).toNat) := by
  have fits : (opN op).toNat ≤ 15 := by omega
  have digit : BitVec.ofNat 4 (opN op).toNat = opN op := by simp
  exact ⟨decide_eq_true fits, formatXY_of_top_low top digit.symm⟩

/-- Family by family (the top digit): the fixed digits of a decoded word are those of its pattern, and its other
digits are the operands. -/
theorem isWordOf_of_decodeWord (h : decodeWord op = .ok i) : IsWordOf op i := by
  unfold decodeWord at h
  split at h
  case h_1 =>
    split at h
    · next word => cases h; exact ⟨rfl, word.symm⟩
    · split at h <;> cases h
      next word => exact ⟨rfl, word.symm⟩
  case h_2 top | h_3 top | h_11 top | h_12 top => cases h; exact ⟨rfl, formatA_of_top top⟩
  case h_4 top | h_5 top | h_7 top | h_8 top | h_13 top => cases h; exact ⟨rfl, formatXI_of_top top⟩
  case h_6 top | h_10 top =>
    split at h <;> cases h
    next low => exact ⟨rfl, formatXY_of_top_low top low⟩
  case h_9 top => exact isWordOf_of_decodeAlu top h
  case h_14 top => cases h; exact isWordOf_drw top
  case h_15 top =>
    split at h
    · next low => cases h; exact ⟨rfl, formatX_of_top_low top low⟩
    · split at h <;> cases h
      next low => exact ⟨rfl, formatX_of_top_low top low⟩
  case h_16 h0 h1 h2 h3 h4 h5 h6 h7 h8 h9 hA hB hC hD hE =>
    exact isWordOf_of_decodeF (top_is_F h0 h1 h2 h3 h4 h5 h6 h7 h8 h9 hA hB hC hD hE) h

theorem decode_eq_ok {hi lo : Byte} {rest rest' : List Byte} :
    decode (hi :: lo :: rest) = .ok (i, rest') ↔ decodeWord (wordOfBytes hi lo) = .ok i ∧ rest' = rest := by
  rw [decode]
  cases decodeWord (wordOfBytes hi lo) <;> simp [Except.map, eq_comm]

end RoundTrip

/-- Settles O1: the bytes of a word put together are the word, and the word of a well-formed instruction decodes to
it. -/
theorem decodeInvertsEncode : Obligations.DecodeInvertsEncode := by
  intro i rest wf
  refine decode_eq_ok.2 ⟨?_, rfl⟩
  rw [wordOfBytes_high_low, decodeWord_encode wf]

/-- Settles O2: a decoded word is the word of its instruction. -/
theorem encodeInvertsDecode : Obligations.EncodeInvertsDecode := by
  intro hi lo rest rest' i h
  obtain ⟨decoded, sameRest⟩ := decode_eq_ok.1 h
  obtain ⟨wf, word⟩ := isWordOf_of_decodeWord decoded
  refine ⟨wf, ?_, sameRest⟩
  rw [encodeBytes, word, highByte_wordOfBytes, lowByte_wordOfBytes]

/-- Settles O3: the formats as numbers, with the digits of each pattern. -/
theorem encodingsAreThePatterns : Obligations.EncodingsAreThePatterns := by
  intro i wf
  cases i
  case cls | ret => rfl
  case jp | call | ldI | jpV0 => exact formatA_toNat _ _
  case seImm | sneImm | ldImm | addImm | rnd =>
    simp only [encode, formatXI_toNat, patternValue, BitVec.toNat_ofNat]; omega
  case drw x y n =>
    have fits : n ≤ 15 := of_decide_eq_true wf
    simp only [encode, formatXY_toNat, patternValue, BitVec.toNat_ofNat]; omega
  case skp | sknp | ldVxDt | ldVxK | ldDtVx | ldStVx | addI | ldF | ldB | dump | load =>
    simp only [encode, formatX_toNat, patternValue, BitVec.toNat_ofNat]; omega
  all_goals simp only [encode, formatXY_toNat, patternValue, BitVec.toNat_ofNat]; omega

/-! ### The opcode table (R74, R82) -/

section OpcodeTable

open Laws.EncodesRow

variable {op a b : Word}

theorem opcodeRow_mem_opcodeTable (i : Instr) : opcodeRow i ∈ opcodeTable := by
  cases i <;> simp [opcodeTable, rowSamples, opcodeRow]

theorem encode_matches_opcodeRow (i : Instr) : encode i &&& (opcodeRow i).1 = (opcodeRow i).2 := by
  cases i
  exacts [cls, ret, jp _, call _, seImm _ _, sneImm _ _, seReg _ _, ldImm _ _, addImm _ _, ldReg _ _, orReg _ _,
    andReg _ _, xorReg _ _, addReg _ _, subReg _ _, shr _ _, subnReg _ _, shl _ _, sneReg _ _, ldI _, jpV0 _, rnd _ _,
    drw _ _ _, skp _, sknp _, ldVxDt _, ldVxK _, ldDtVx _, ldStVx _, addI _, ldF _, ldB _, dump _, load _]

/-- The mask `FFFF` keeps every digit. -/
theorem eq_of_masked_all (h : a &&& 0xFFFF#16 = b &&& 0xFFFF#16) : a = b :=
  BitVec.and_allOnes.symm.trans (h.trans BitVec.and_allOnes)

/-- The mask `F000` keeps the top digit. -/
theorem opTop_eq_of_masked (h : a &&& 0xF000#16 = b &&& 0xF000#16) : opTop a = opTop b := by
  rw [← formatA_fields a, ← formatA_fields b, formatA_masked, formatA_masked] at h
  simpa using congrArg opTop h

/-- The mask `F00F` keeps the top digit and the low one. -/
theorem opTop_opN_eq_of_masked (h : a &&& 0xF00F#16 = b &&& 0xF00F#16) : opTop a = opTop b ∧ opN a = opN b := by
  rw [← formatXY_fields a, ← formatXY_fields b, formatXY_masked, formatXY_masked] at h
  exact ⟨by simpa using congrArg opTop h, by simpa using congrArg opN h⟩

/-- The mask `F0FF` keeps the top digit and the low byte. -/
theorem opTop_opNN_eq_of_masked (h : a &&& 0xF0FF#16 = b &&& 0xF0FF#16) : opTop a = opTop b ∧ opNN a = opNN b := by
  rw [← formatX_fields a, ← formatX_fields b, formatX_masked, formatX_masked] at h
  exact ⟨by simpa using congrArg opTop h, by simpa using congrArg opNN h⟩

/-- A word in the row of `j` has the fixed digits of the word of `j`, and these lead the decoder to the arm of that
row. -/
theorem decodeWord_of_matches_opcodeRow {j : Instr} (h : op &&& (opcodeRow j).1 = (opcodeRow j).2) :
    ∃ i, decodeWord op = .ok i ∧ opcodeRow i = opcodeRow j := by
  have same : op &&& (opcodeRow j).1 = encode j &&& (opcodeRow j).1 := h.trans (encode_matches_opcodeRow j).symm
  cases j
  case cls | ret =>
    obtain rfl := eq_of_masked_all same
    exact ⟨_, decodeWord_encode rfl, rfl⟩
  case seReg | sneReg =>
    obtain ⟨top, low⟩ := opTop_opN_eq_of_masked same
    simp [decodeWord, top, low, encode, opcodeRow]
  case ldReg | orReg | andReg | xorReg | addReg | subReg | shr | subnReg | shl =>
    obtain ⟨top, low⟩ := opTop_opN_eq_of_masked same
    simp [decodeWord, decodeAlu, top, low, encode, opcodeRow]
  case skp | sknp =>
    obtain ⟨top, low⟩ := opTop_opNN_eq_of_masked same
    simp [decodeWord, top, low, encode, opcodeRow]
  case ldVxDt | ldVxK | ldDtVx | ldStVx | addI | ldF | ldB | dump | load =>
    obtain ⟨top, low⟩ := opTop_opNN_eq_of_masked same
    simp [decodeWord, decodeF, top, low, encode, opcodeRow]
  all_goals
    have top := opTop_eq_of_masked same
    simp [decodeWord, top, encode, opcodeRow]

theorem decodeWord_of_mem_opcodeTable {row : Word × Word} (mem : row ∈ opcodeTable) (h : op &&& row.1 = row.2) :
    ∃ i, decodeWord op = .ok i ∧ opcodeRow i = row := by
  obtain ⟨j, -, rfl⟩ := List.mem_map.1 mem
  exact decodeWord_of_matches_opcodeRow h

end OpcodeTable

/-- Settles O4: a decoded word is the word of its instruction, which satisfies its row; and a row's mask keeps the
digits the decoder selects by. -/
theorem decodingFollowsTheOpcodeTable : Obligations.DecodingFollowsTheOpcodeTable := by
  refine ⟨fun op i h => ⟨opcodeRow_mem_opcodeTable i, ?_⟩, fun op row => decodeWord_of_mem_opcodeTable⟩
  obtain ⟨-, rfl⟩ := isWordOf_of_decodeWord h
  exact encode_matches_opcodeRow i

/-- Settles O5: a word that satisfies two rows decodes to an instruction of each, and it decodes to one only. -/
theorem opcodeRowsAreDisjoint : Obligations.OpcodeRowsAreDisjoint := by
  refine ⟨rfl, by decide, fun op a b memA memB matchA matchB => ?_⟩
  obtain ⟨i, decodedI, rfl⟩ := decodeWord_of_mem_opcodeTable memA matchA
  obtain ⟨j, decodedJ, rfl⟩ := decodeWord_of_mem_opcodeTable memB matchB
  cases decodedI.symm.trans decodedJ
  rfl

/-! ### The illegal words (R75) -/

section IllegalWords

variable {op : Word}

/-- The shape of the families with two words of their own. -/
theorem twoArms_eq_error {p q : Prop} [Decidable p] [Decidable q] {i j : Instr} {e : DecodeError} :
    (if p then .ok i else if q then .ok j else .error e : Except DecodeError Instr) = .error e ↔ ¬ p ∧ ¬ q := by
  by_cases hp : p
  · simp [hp]
  · by_cases hq : q <;> simp [hp, hq]

/-- Nine of the sixteen low digits have an arm. -/
theorem decodeAlu_eq_error : decodeAlu op = .error .invalidOpcode ↔
    opN op ∈ [0x8#4, 0x9#4, 0xA#4, 0xB#4, 0xC#4, 0xD#4, 0xF#4] := by
  unfold decodeAlu
  generalize opN op = n
  obtain ⟨⟨k, hk⟩⟩ := n
  interval_cases k <;> simp

theorem decodeF_eq_error : decodeF op = .error .invalidOpcode ↔
    opNN op ∉ [0x07#8, 0x0A#8, 0x15#8, 0x18#8, 0x1E#8, 0x29#8, 0x33#8, 0x55#8, 0x65#8] := by
  unfold decodeF
  split
  case h_10 => simp_all
  all_goals next low => simp [low]

end IllegalWords

/-- Settles O6: the arms of `decodeWord` one by one; the legal families are those that no clause names. -/
theorem illegalWordsByFamily : Obligations.IllegalWordsByFamily := by
  intro op
  unfold decodeWord
  split
  case h_1 top | h_15 top => simp [top, twoArms_eq_error]
  case h_6 top | h_10 top => simp [top]
  case h_9 top => simp [top, decodeAlu_eq_error]
  case h_16 h0 h1 h2 h3 h4 h5 h6 h7 h8 h9 hA hB hC hD hE =>
    have top : opTop op = 0xF#4 := top_is_F h0 h1 h2 h3 h4 h5 h6 h7 h8 h9 hA hB hC hD hE
    simp [top, decodeF_eq_error]
  all_goals next top => simp [top]

/-! ### No step is refused (R80) -/

section NoRefusal

variable {s : State} {i : Instr} {r : Refusal}

theorem execRet_ne_refused : execRet s ≠ .refused r := by
  unfold execRet
  split <;> simp [raise]

theorem execCall_ne_refused {nnn : BitVec 12} : execCall nnn s ≠ .refused r := by
  unfold execCall
  split <;> simp [raise]

/-- An instruction with a bounds test completes or raises. -/
theorem guarded_ne_refused {t : State} {fits : Bool} {f : Fault} :
    (if fits then Host.Outcome.next t else raise f) ≠ (.refused r : Result) := by
  split <;> simp [raise]

theorem exec_ne_refused : exec i s ≠ .refused r := by
  intro h
  cases i
  case ret => exact execRet_ne_refused h
  case call nnn => exact execCall_ne_refused h
  case drw | ldB | dump | load => exact guarded_ne_refused h
  all_goals cases h

theorem step_ne_refused : step s ≠ .refused r := by
  cases mode : s.mode with
  | awaitingKey => simp [step_of_waiting mode]
  | running =>
    obtain ⟨k, fetch⟩ | ⟨op, fetch, ⟨e, decoded⟩ | ⟨i, decoded⟩⟩ := fetch_decode_cases s
    · simp [step_of_fetch_error mode fetch]
    · simp [step_of_decode_error mode fetch decoded]
    · rw [step_of_decode_ok mode fetch decoded]
      exact exec_ne_refused

end NoRefusal

/-- Settles O10: no arm of `exec` refuses, and a step is a poll, an error or an `exec`. -/
theorem stepNeverRefuses : Obligations.StepNeverRefuses :=
  ⟨fun _ _ _ => exec_ne_refused, fun _ _ => step_ne_refused⟩

/-! ### The program counter (R81) -/

section ProgramCounter

variable {s t : State}

theorem State.skipIf_pc_cases (s : State) (c : Bool) :
    (s.skipIf c).pc = s.pc + 4#16 ∨ (s.skipIf c).pc = s.pc + 2#16 := by
  cases c
  · exact .inr rfl
  · exact .inl rfl

/-- A PC that passed the bounds test is far from the sixteen-bit wrap. -/
theorem toNat_pc_add {pc d : Word} (inBounds : pc.toNat ≤ 0xFFE) (short : d.toNat ≤ 4) :
    (pc + d).toNat = pc.toNat + d.toNat := by
  rw [BitVec.toNat_add, Nat.mod_eq_of_lt (by omega)]

theorem toNat_zeroExtend_nnn (nnn : BitVec 12) : (nnn.zeroExtend 16).toNat = nnn.toNat :=
  BitVec.toNat_setWidth_of_le (by omega)

theorem toNat_jpV0_target (nnn : BitVec 12) (b : Byte) :
    (nnn.zeroExtend 16 + b.zeroExtend 16).toNat = nnn.toNat + b.toNat := by
  have byte : (b.zeroExtend 16).toNat = b.toNat := BitVec.toNat_setWidth_of_le (by omega)
  rw [BitVec.toNat_add, toNat_zeroExtend_nnn, byte, Nat.mod_eq_of_lt (by omega)]

theorem execRet_pc (h : execRet s = .next t) {k : Fin 16} (top : k.val + 1 = s.sp.val) : t.pc = s.stack[k.val] := by
  obtain ⟨-, rfl⟩ := execRet_eq_next.1 h
  simp [← top]

end ProgramCounter

/-- Settles O40: the transfers and the skips by their own rules; every other instruction but LD Vx, K ends with
`advance`. -/
theorem programCounterRule : Obligations.ProgramCounterRule := by
  intro i s t h
  refine ⟨?_, fun inBounds => ⟨toNat_pc_add inBounds (by decide), toNat_pc_add inBounds (by decide)⟩⟩
  cases i
  case ret => exact fun k => execRet_pc h
  case jp nnn => cases h; exact toNat_zeroExtend_nnn nnn
  case call nnn => obtain ⟨-, rfl⟩ := execCall_eq_next.1 h; exact toNat_zeroExtend_nnn nnn
  case jpV0 nnn => cases h; exact toNat_jpV0_target nnn _
  case seImm | sneImm | seReg | sneReg | skp | sknp => cases h; exact s.skipIf_pc_cases _
  case drw => obtain ⟨-, rfl⟩ := execDrw_eq_next.1 h; rfl
  case ldB => obtain ⟨-, rfl⟩ := execLdB_eq_next.1 h; rfl
  case dump => obtain ⟨-, rfl⟩ := execDump_eq_next.1 h; rfl
  case load => obtain ⟨-, rfl⟩ := execLoad_eq_next.1 h; rfl
  case addI => obtain ⟨-, rfl⟩ | ⟨-, rfl⟩ := execAddI_cases h <;> rfl
  all_goals cases h; rfl

/-- Settles O7: each word is the word of its instruction. -/
theorem writtenOutWordsDecode : Obligations.WrittenOutWordsDecode :=
  ⟨decodeWord_encode (i := .ret) rfl, decodeWord_encode (i := .jp 0x204#12) rfl,
    decodeWord_encode (i := .seImm 1 0x00#8) rfl, decodeWord_encode (i := .addImm 1 0xFF#8) rfl,
    decodeWord_encode (i := .addReg 0 1) rfl, decodeWord_encode (i := .ldI 0x300#12) rfl,
    decodeWord_encode (i := .rnd 0 0x0F#8) rfl, decodeWord_encode (i := .drw 0 1 2) rfl,
    decodeWord_encode (i := .skp 0) rfl, decodeWord_encode (i := .ldVxK 1) rfl,
    decodeWord_encode (i := .ldDtVx 0) rfl⟩

end Sys2Proof.Machine

/-!
PROOFS. The control transfers: what JP, JP V0, CALL and RET do and leave, what a balanced sequence of CALLs and RETs
leaves of the stack, and the self-jump that ends a run (spec/40_control_transfer.md R100 to R103, R246).
-/

namespace Sys2Proof.Machine

/-! ### The four transfers (R100 to R103) -/

section Transfers

variable {s t : State}

/-- CALL and RET write PC, SP and the stack, and leave everything else. -/
theorem frame_of_stack_write (write : t = { s with pc := t.pc, sp := t.sp, stack := t.stack }) :
    SameRegs s t ∧ t.i = s.i ∧ SameMemory s t ∧ SameScreen s t ∧ SameTimers s t ∧ SameWait s t ∧ SameInputs s t ∧
      t.draws = s.draws := by
  rw [write]
  exact ⟨fun _ => rfl, rfl, fun _ => rfl, fun _ _ => rfl, ⟨rfl, rfl⟩, ⟨rfl, rfl, rfl⟩, ⟨rfl, rfl⟩, rfl⟩

/-- JP and JP V0 write PC and leave everything else. -/
theorem frame_of_jump (s : State) (w : Word) :
    SameRegs s (s.jump w) ∧ (s.jump w).i = s.i ∧ SameMemory s (s.jump w) ∧ SameScreen s (s.jump w) ∧
      SameRest s (s.jump w) := by
  obtain ⟨regs, index, memory, screen, timers, wait, inputs, draws⟩ :=
    frame_of_stack_write (s := s) (t := s.jump w) rfl
  exact ⟨regs, index, memory, screen, ⟨rfl, fun _ => rfl⟩, timers, wait, inputs, draws⟩

/-- RET drops the last entry and erases none (R100). -/
theorem execRet_stack (h : execRet s = .next t) : t.sp.val + 1 = s.sp.val ∧ t.stack = s.stack := by
  obtain ⟨inUse, rfl⟩ := execRet_eq_next.1 h
  exact ⟨Nat.sub_add_cancel inUse, rfl⟩

/-- CALL adds one entry, the address after it, and keeps the others (R102). -/
theorem execCall_stack {nnn : BitVec 12} (h : execCall nnn s = .next t) :
    t.sp.val = s.sp.val + 1 ∧
      ∀ k : Fin 16, t.stack[k.val] = if k.val = s.sp.val then s.pc + 2#16 else s.stack[k.val] := by
  obtain ⟨room, rfl⟩ := execCall_eq_next.1 h
  refine ⟨rfl, fun k => ?_⟩
  simp [Vector.getElem_set, eq_comm]

end Transfers

/-- Settles O16: with an entry in use RET is `execRet_eq_next`, with none it raises. -/
theorem returnRule : Obligations.ReturnRule := by
  refine ⟨decodeWord_encode (i := .ret) rfl, fun s => ⟨fun inUse => ?_, execRet_of_empty⟩⟩
  have completes := execRet_eq_next.2 ⟨inUse, rfl⟩
  obtain ⟨sp, stack⟩ := execRet_stack completes
  exact ⟨_, completes, sp, fun k top => execRet_pc completes (by omega), fun k => by rw [stack],
    frame_of_stack_write rfl⟩

/-- Settles O17: both targets are the sums as integers, and a jump writes PC alone. -/
theorem jumpRules : Obligations.JumpRules := fun nnn s =>
  ⟨decodeWord_encode (i := .jp nnn) rfl, decodeWord_encode (i := .jpV0 nnn) rfl,
    ⟨_, rfl, toNat_zeroExtend_nnn nnn, frame_of_jump s _⟩,
    ⟨_, rfl, toNat_jpV0_target nnn (s.reg 0), frame_of_jump s _⟩⟩

/-- Settles O18: with an entry free CALL is `execCall_eq_next`, with none it raises. -/
theorem callRule : Obligations.CallRule := by
  refine fun nnn s => ⟨decodeWord_encode (i := .call nnn) rfl, fun room => ?_, execCall_of_full⟩
  have completes := execCall_eq_next (nnn := nnn).2 ⟨room, rfl⟩
  obtain ⟨sp, stack⟩ := execCall_stack completes
  exact ⟨_, completes, toNat_zeroExtend_nnn nnn, sp, stack, frame_of_stack_write rfl⟩

/-! ### Balanced sequences of CALLs and RETs -/

/-- The stack as callers see it is as before: SP and every entry in use. -/
def SameEntriesInUse (s t : State) : Prop :=
  t.sp = s.sp ∧ ∀ k : Fin 16, k.val < s.sp.val → t.stack[k.val] = s.stack[k.val]

section Sequences

variable {s t u : State} {is js body : List Instr} {i : Instr} {nnn : BitVec 12}

theorem SameEntriesInUse.refl (s : State) : SameEntriesInUse s s := ⟨rfl, fun _ _ => rfl⟩

theorem SameEntriesInUse.trans (first : SameEntriesInUse s u) (second : SameEntriesInUse u t) :
    SameEntriesInUse s t := by
  obtain ⟨sp, entries⟩ := first
  obtain ⟨sp', entries'⟩ := second
  exact ⟨sp'.trans sp, fun k used => (entries' k (by rwa [sp])).trans (entries k used)⟩

theorem sameEntriesInUse_of_exec (h : exec i s = .next t) (notCall : ∀ nnn, i ≠ .call nnn) (notRet : i ≠ .ret) :
    SameEntriesInUse s t := by
  obtain ⟨sp, stack⟩ := (exec_writesAsListed h).stack notRet.symm fun nnn => (notCall nnn).symm
  exact ⟨sp, fun k _ => by rw [stack]⟩

theorem execAll_cons_eq_next :
    execAll (i :: is) s = .next t ↔ ∃ u, exec i s = .next u ∧ execAll is u = .next t := by
  rw [execAll]
  cases exec i s <;> simp

theorem execAll_append_eq_next :
    execAll (is ++ js) s = .next t ↔ ∃ u, execAll is s = .next u ∧ execAll js u = .next t := by
  induction is generalizing s with
  | nil => simp [execAll]
  | cons i is ih =>
    simp only [List.cons_append, execAll_cons_eq_next, ih]
    constructor
    · rintro ⟨v, one, w, rest, last⟩
      exact ⟨w, ⟨v, one, rest⟩, last⟩
    · rintro ⟨w, ⟨v, one, rest⟩, last⟩
      exact ⟨v, one, w, rest, last⟩

/-- CALL, a body that keeps the entries in use, and RET: the body keeps the return address that CALL pushed, and RET
pops it. -/
theorem return_after_call {v w : State} (call : execCall nnn s = .next v) (body : SameEntriesInUse v w)
    (ret : execRet w = .next t) : t.pc = s.pc + 2#16 ∧ SameEntriesInUse s t := by
  obtain ⟨room, -⟩ := execCall_eq_next.1 call
  obtain ⟨pushed, entries⟩ := execCall_stack call
  obtain ⟨bodySp, bodyEntries⟩ := body
  obtain ⟨popped, kept⟩ := execRet_stack ret
  have wSp : w.sp.val = s.sp.val + 1 := by rw [bodySp, pushed]
  refine ⟨?_, Fin.ext (by omega), fun k used => ?_⟩
  · have top : w.stack[s.sp.val] = v.stack[s.sp.val] := bodyEntries ⟨s.sp.val, room⟩ (by simp [pushed])
    have returnAddress : v.stack[s.sp.val] = s.pc + 2#16 := by simpa using entries ⟨s.sp.val, room⟩
    rw [execRet_pc ret (k := ⟨s.sp.val, room⟩) wSp.symm]
    exact top.trans returnAddress
  · calc t.stack[k.val] = w.stack[k.val] := by rw [kept]
      _ = v.stack[k.val] := bodyEntries k (by omega)
      _ = s.stack[k.val] := by rw [entries, if_neg (by omega)]

/-- The same for the instructions in a list, with what follows the RET. -/
theorem execAll_call_body_ret
    (keeps : ∀ {s t}, execAll body s = .next t → SameEntriesInUse s t)
    (h : execAll (.call nnn :: body ++ .ret :: is) s = .next t) :
    ∃ u, u.pc = s.pc + 2#16 ∧ SameEntriesInUse s u ∧ execAll is u = .next t := by
  obtain ⟨w, called, rest⟩ := execAll_append_eq_next.1 h
  obtain ⟨v, call, ran⟩ := execAll_cons_eq_next.1 called
  obtain ⟨u, ret, last⟩ := execAll_cons_eq_next.1 rest
  obtain ⟨pc, same⟩ := return_after_call call (keeps ran) ret
  exact ⟨u, pc, same, last⟩

theorem sameEntriesInUse_of_balanced (balanced : Balanced is) (h : execAll is s = .next t) :
    SameEntriesInUse s t := by
  induction balanced generalizing s t with
  | nil => cases h; exact .refl s
  | plain notCall notRet rest ih =>
    obtain ⟨u, one, others⟩ := execAll_cons_eq_next.1 h
    exact (sameEntriesInUse_of_exec one notCall notRet).trans (ih others)
  | nest inner rest ihInner ihRest =>
    obtain ⟨u, -, same, others⟩ := execAll_call_body_ret ihInner h
    exact same.trans (ihRest others)

end Sequences

/-- Settles O45, by induction on the balanced sequence: RET takes off the one entry that its CALL put on. -/
theorem balancedCallsRestoreTheStack : Obligations.BalancedCallsRestoreTheStack := by
  refine ⟨fun _ _ _ => sameEntriesInUse_of_balanced, fun nnn body s t balanced h => ?_⟩
  obtain ⟨u, pc, ⟨sp, -⟩, last⟩ := execAll_call_body_ret (sameEntriesInUse_of_balanced balanced) h
  cases last
  exact ⟨pc, sp⟩

/-! ### The self-jump at the end of a run (R101, R246) -/

section Ended

variable {s t : State}

theorem State.ended_iff : s.ended = true ↔
    s.mode = .running ∧ s.pc.toNat ≤ 0xFFE ∧ s.pc.toNat % 2 = 0 ∧ s.peekWord s.pc.toNat = 0x1000#16 + s.pc := by
  simp [State.ended, and_assoc]

/-- `0x1000 + PC` is the word of the jump whose twelve bits are PC. -/
theorem exists_encode_jp_self {pc : Word} (inBounds : pc.toNat ≤ 0xFFE) :
    ∃ nnn : BitVec 12, 0x1000#16 + pc = encode (.jp nnn) ∧ nnn.zeroExtend 16 = pc := by
  have digits : (BitVec.ofNat 12 pc.toNat).toNat = pc.toNat := Nat.mod_eq_of_lt (by omega)
  refine ⟨BitVec.ofNat 12 pc.toNat, BitVec.eq_of_toNat_eq ?_, BitVec.eq_of_toNat_eq ?_⟩
  · rw [encode, formatA_toNat, digits, BitVec.toNat_add]
    simp; omega
  · rw [toNat_zeroExtend_nnn, digits]

theorem step_of_ended (ended : s.ended = true) : step s = .next s := by
  obtain ⟨running, inBounds, even, word⟩ := State.ended_iff.1 ended
  obtain ⟨nnn, jump, target⟩ := exists_encode_jp_self inBounds
  have decoded : decodeWord (s.peekWord s.pc.toNat) = .ok (.jp nnn) := by rw [word, jump, decodeWord_encode rfl]
  have self : s.jump (nnn.zeroExtend 16) = s := by rw [target]; rfl
  calc step s = exec (.jp nnn) s := step_of_decode_ok running (State.fetch_eq_ok.2 ⟨inBounds, even, rfl⟩) decoded
    _ = .next s := congrArg Host.Outcome.next self

/-- The states a run passes through after its end: only the timers and the keys move. -/
def SameButTimersAndKeys (s t : State) : Prop := ∃ dt st keys, t = { s with dt, st, keys }

theorem SameButTimersAndKeys.ended (same : SameButTimersAndKeys s t) (ended : s.ended = true) : t.ended = true := by
  obtain ⟨dt, st, keys, rfl⟩ := same
  exact ended

/-- From an ended state a step changes nothing, a tick the timers, a key event the keys, and a host read nothing. -/
theorem sameButTimersAndKeys_of_transact {u : State} {a : Transaction} {r : Response} (ended : s.ended = true)
    (running : a.isRunning = true) (same : SameButTimersAndKeys s t) (h : transact t a = .ok (u, r)) :
    SameButTimersAndKeys s u := by
  have stays : step t = .next t := step_of_ended (same.ended ended)
  obtain ⟨dt, st, keys, rfl⟩ := same
  cases a with
  | configure | reset | loadRom => cases running
  | step =>
    rw [transact, stays] at h
    cases h
    exact ⟨dt, st, keys, rfl⟩
  | tickTimers => cases h; exact ⟨_, _, _, rfl⟩
  | setKey index pressed =>
    simp only [transact] at h
    split at h <;> cases h
    exact ⟨_, _, _, rfl⟩
  | framebufferSnapshot | soundActive => cases h; exact ⟨_, _, _, rfl⟩

end Ended

/-- Settles O60: the self-jump executes to the state it began in, and the other transactions of a run reach the timers
and the keys only. -/
theorem endedRunStaysEnded : Obligations.EndedRunStaysEnded := by
  refine fun s ended => ⟨step_of_ended ended, fun ts s' rs running h => ?_⟩
  have same : SameButTimersAndKeys s s' :=
    transactAll_keeps (fun a mem => sameButTimersAndKeys_of_transact ended (running a mem)) ⟨_, _, _, rfl⟩ h
  refine ⟨same.ended ended, ?_⟩
  obtain ⟨dt, st, keys, rfl⟩ := same
  rfl

end Sys2Proof.Machine

/-!
PROOFS. The skips: an instruction that executes to `skipIf` writes PC only, and the four skips on registers do
(spec/41_skips.md R110 to R114).
-/

namespace Sys2Proof.Machine

/-- The rule common to the skips (R114): PC is `skipIf`'s own choice, and the rest is the frame of a jump. -/
theorem skipsWhen_of_exec {i : Instr} {s : State} {c : Bool} {p : Prop} (h : exec i s = .next (s.skipIf c))
    (condition : c = true ↔ p) : SkipsWhen i s p := by
  refine ⟨_, h, fun holds => ?_, fun fails => ?_, frame_of_jump s _⟩
  · rw [State.skipIf_pc, if_pos (condition.2 holds)]
  · rw [State.skipIf_pc, if_neg (mt condition.1 fails)]

/-- Settles O19: each word is the word of its instruction, whose Boolean test decides its condition. -/
theorem registerSkipRules : Obligations.RegisterSkipRules := fun x y nn _ =>
  ⟨decodeWord_encode (i := .seImm x nn) rfl, decodeWord_encode (i := .sneImm x nn) rfl,
    decodeWord_encode (i := .seReg x y) rfl, decodeWord_encode (i := .sneReg x y) rfl,
    skipsWhen_of_exec rfl beq_iff_eq, skipsWhen_of_exec rfl bne_iff_ne,
    skipsWhen_of_exec rfl beq_iff_eq, skipsWhen_of_exec rfl bne_iff_ne⟩

end Sys2Proof.Machine

/-!
PROOFS. The immediates: an instruction that writes general registers and advances leaves the rest, and LD Vx, nn and
ADD Vx, nn write Vx alone (spec/42_immediate.md R120, R121).
-/

namespace Sys2Proof.Machine

/-- The rule common to the instructions that write general registers only: what the registers hold afterwards is all
there is to show. -/
theorem setsRegs_of_exec {i : Instr} {s t : State} {new : Reg → Byte} (h : exec i s = .next t)
    (write : t = { s with v := t.v, pc := s.pc + 2#16 }) (regs : ∀ r, t.reg r = new r) : SetsRegs i s new := by
  refine ⟨t, h, regs, ?_⟩
  rw [write]
  exact ⟨rfl, rfl, fun _ => rfl, fun _ _ => rfl, ⟨rfl, fun _ => rfl⟩, ⟨rfl, rfl⟩, ⟨rfl, rfl, rfl⟩, ⟨rfl, rfl⟩, rfl⟩

theorem setsRegs_of_exec_setReg {i : Instr} {s : State} {x : Reg} {b : Byte}
    (h : exec i s = .next (s.setReg x b).advance) : SetsRegs i s (fun r => if r = x then b else s.reg r) :=
  setsRegs_of_exec h rfl fun r => s.reg_setReg x r b

/-- The sum of two bytes is their sum as numbers, modulo 256 (R121). -/
theorem byte_add_eq_ofNat_mod (a b : Byte) : a + b = BitVec.ofNat 8 ((a.toNat + b.toNat) % 256) :=
  BitVec.eq_of_toNat_eq (by simp)

/-- Settles O21: each word is the word of its instruction, which executes to one register write, for ADD of the sum
modulo 256. -/
theorem immediateRules : Obligations.ImmediateRules := by
  intro x nn s
  refine ⟨decodeWord_encode (i := .ldImm x nn) rfl, decodeWord_encode (i := .addImm x nn) rfl,
    setsRegs_of_exec_setReg rfl, ?_⟩
  rw [← byte_add_eq_ofNat_mod]
  exact setsRegs_of_exec_setReg rfl

end Sys2Proof.Machine

/-!
PROOFS. The register-register family and ADD I: each writes Vx or I, then, where it has a flag, VF, and leaves the
rest (spec/43_alu.md R130 to R141, spec/44_index_memory.md R151).
-/

namespace Sys2Proof.Machine

/-! ### The result and the flag as numbers (R130, R131) -/

/-- Register F is the register that the flag is written to (R130). -/
theorem Reg.eq_flag_iff {r : Reg} : r = Reg.flag ↔ r.val = 15 := Fin.ext_iff

theorem flagByte_decide (p : Prop) [Decidable p] : flagByte (decide p) = if p then 1#8 else 0#8 := by
  simp [flagByte]

/-- The difference of two bytes is their difference as numbers, modulo 256 (R137, R139). -/
theorem byte_sub_eq_ofNat_mod (a b : Byte) : a - b = BitVec.ofNat 8 ((a.toNat + 256 - b.toNat) % 256) := by
  have bound : b.toNat < 256 := b.isLt
  refine BitVec.eq_of_toNat_eq ?_
  rw [BitVec.toNat_sub, BitVec.toNat_ofNat]
  omega

theorem byte_shiftRight_eq_ofNat_div (b : Byte) : b >>> 1 = BitVec.ofNat 8 (b.toNat / 2) := by
  have bound : b.toNat < 256 := b.isLt
  refine BitVec.eq_of_toNat_eq ?_
  rw [BitVec.toNat_ushiftRight, Nat.shiftRight_eq_div_pow, BitVec.toNat_ofNat]
  omega

theorem byte_shiftLeft_eq_ofNat_mod (b : Byte) : b <<< 1 = BitVec.ofNat 8 (b.toNat * 2 % 256) := by
  refine BitVec.eq_of_toNat_eq ?_
  rw [BitVec.toNat_shiftLeft, Nat.shiftLeft_eq, BitVec.toNat_ofNat]
  omega

/-- Bit 0 is the remainder by 2 (R138). -/
theorem flagByte_bitOutRight (b : Byte) : flagByte (bitOutRight b) = BitVec.ofNat 8 (b.toNat % 2) := by
  rw [bitOutRight, BitVec.getLsbD, Nat.testBit_zero, flagByte_decide]
  obtain even | odd := Nat.mod_two_eq_zero_or_one b.toNat
  · simp [even]
  · simp [odd]

/-- Bit 7 is the quotient by 128, since a byte is below 256 (R140). -/
theorem flagByte_bitOutLeft (b : Byte) : flagByte (bitOutLeft b) = BitVec.ofNat 8 (b.toNat / 128) := by
  have digit : b.toNat / 128 < 2 := Nat.div_lt_of_lt_mul b.isLt
  rw [bitOutLeft, BitVec.getLsbD, Nat.testBit_eq_decide_div_mod_eq, Nat.mod_eq_of_lt digit, flagByte_decide]
  obtain low | high := Nat.le_one_iff_eq_zero_or_eq_one.1 (Nat.le_of_lt_succ digit)
  · simp [low]
  · simp [high]

/-- The sum of an index and a byte, modulo 65536 (R151). -/
theorem toNat_index_add_byte (i : Word) (b : Byte) :
    (i + b.zeroExtend 16).toNat = (i.toNat + b.toNat) % 65536 := by
  simp

/-! ### The family 8xyN (R132 to R141) -/

/-- The rule common to the instructions with a flag (R130): VF holds the flag even when it is Vx, and Vx the result. -/
theorem setsRegs_of_exec_setResult {i : Instr} {s : State} {x : Reg} {b result flag : Byte} {f : Bool}
    (h : exec i s = .next (s.setResult x b f).advance) (hflag : flagByte f = flag) (hresult : b = result) :
    SetsRegs i s (fun r => if r.val = 15 then flag else if r = x then result else s.reg r) := by
  subst hflag hresult
  refine setsRegs_of_exec h rfl fun r => ?_
  simp only [State.reg_advance, State.reg_setResult, Reg.eq_flag_iff]

/-- Settles O22: each word is the word of its instruction, which executes to one register write, and a bit of the
bitwise operation is that operation on the bits. -/
theorem copyAndLogicRules : Obligations.CopyAndLogicRules := fun x y s =>
  ⟨decodeWord_encode (i := .ldReg x y) rfl, decodeWord_encode (i := .orReg x y) rfl,
    decodeWord_encode (i := .andReg x y) rfl, decodeWord_encode (i := .xorReg x y) rfl,
    setsRegs_of_exec_setReg rfl,
    ⟨s.reg x ||| s.reg y, fun _ => BitVec.getLsbD_or, setsRegs_of_exec_setReg rfl⟩,
    ⟨s.reg x &&& s.reg y, fun _ => BitVec.getLsbD_and, setsRegs_of_exec_setReg rfl⟩,
    ⟨s.reg x ^^^ s.reg y, fun _ => BitVec.getLsbD_xor, setsRegs_of_exec_setReg rfl⟩⟩

/-- Settles O23: each word is the word of its instruction, whose flag is a comparison of the unreduced operands and
whose result is their sum or difference modulo 256. -/
theorem addAndSubtractRules : Obligations.AddAndSubtractRules := fun x y _ =>
  ⟨decodeWord_encode (i := .addReg x y) rfl, decodeWord_encode (i := .subReg x y) rfl,
    decodeWord_encode (i := .subnReg x y) rfl,
    setsRegs_of_exec_setResult rfl (flagByte_decide _) (byte_add_eq_ofNat_mod _ _),
    setsRegs_of_exec_setResult rfl (flagByte_decide _) (byte_sub_eq_ofNat_mod _ _),
    setsRegs_of_exec_setResult rfl (flagByte_decide _) (byte_sub_eq_ofNat_mod _ _)⟩

/-- The toggle selects Vy when it is set and Vx when it is not (R141). -/
theorem toNat_shiftSource {s : State} {x y : Reg} {src : Nat}
    (setTo : s.cfg.shiftSourceVy = true → src = (s.reg y).toNat)
    (clear : s.cfg.shiftSourceVy = false → src = (s.reg x).toNat) : (s.shiftSource x y).toNat = src := by
  rw [State.shiftSource]
  split
  · next toggle => exact (setTo toggle).symm
  · next toggle => exact (clear (Bool.eq_false_iff.2 toggle)).symm

/-- Settles O24: the toggle's source, once for both values, shifted by one, with the bit shifted out as the flag. -/
theorem shiftRules : Obligations.ShiftRules := by
  intro x y s src setTo clear
  obtain rfl := toNat_shiftSource setTo clear
  exact ⟨decodeWord_encode (i := .shr x y) rfl, decodeWord_encode (i := .shl x y) rfl,
    setsRegs_of_exec_setResult rfl (flagByte_bitOutRight _) (byte_shiftRight_eq_ofNat_div _),
    setsRegs_of_exec_setResult rfl (flagByte_bitOutLeft _) (byte_shiftLeft_eq_ofNat_mod _)⟩

/-! ### ADD I (R151) -/

/-- An instruction that writes general registers, I and PC leaves everything else. -/
theorem frame_of_register_write {s t : State} (write : t = { s with v := t.v, i := t.i, pc := t.pc }) :
    SameMemory s t ∧ SameScreen s t ∧ SameRest s t := by
  rw [write]
  exact ⟨fun _ => rfl, fun _ _ => rfl, ⟨rfl, fun _ => rfl⟩, ⟨rfl, rfl⟩, ⟨rfl, rfl, rfl⟩, ⟨rfl, rfl⟩, rfl⟩

/-- Settles O26: both outcomes of the toggle write the sum to I, and only the one with the toggle set writes VF. -/
theorem addIndexRule : Obligations.AddIndexRule := by
  intro x s
  refine ⟨decodeWord_encode (i := .addI x) rfl, ?_⟩
  have runs : exec (.addI x) s = _ := execAddI_eq_ite x s
  have sum := toNat_index_add_byte s.i (s.reg x)
  by_cases toggle : s.cfg.iOverflowSetsVf = true
  · rw [if_pos toggle] at runs
    refine ⟨_, runs, sum, rfl, fun off => absurd toggle (Bool.eq_false_iff.1 off), fun _ r => ?_,
      frame_of_register_write rfl⟩
    simp only [State.reg_advance, State.reg_setFlag, State.reg_setIndex, Reg.eq_flag_iff, indexOverflow, flagByte_decide]
  · rw [if_neg toggle] at runs
    exact ⟨_, runs, sum, rfl, fun _ _ => rfl, fun on => absurd on toggle, frame_of_register_write rfl⟩

end Sys2Proof.Machine

/-!
PROOFS. The transfers through I: a store of bytes and what it leaves, the decimal digits, LD [I] and LD Vx, [I] with the
toggle of I, and LD I (spec/44_index_memory.md R150, R153 to R156).
-/

namespace Sys2Proof.Machine

section Transfers

variable {s t : State} {x : Reg}

/-! ### A store of bytes (R54) -/

/-- A store of bytes puts its `k`-th byte at offset `k`. -/
theorem State.peek_pokeBytes_within (wf : s.mem.wf s.cfg.resetByte = true) {a k : Nat} {bs : List Byte}
    (inside : a + bs.length ≤ 0x1000) (stored : k < bs.length) : (s.pokeBytes a bs).peek (a + k) = bs[k] := by
  have offset : a + k - a = k := Nat.add_sub_cancel_left ..
  rw [State.peek_pokeBytes wf a bs inside, dif_pos ⟨Nat.le_add_right .., by rwa [offset]⟩]
  simp only [offset]

/-- A store of bytes leaves every byte outside its range. -/
theorem sameMemoryOutside_pokeBytes (wf : s.mem.wf s.cfg.resetByte = true) {a : Nat} {bs : List Byte}
    (inside : a + bs.length ≤ 0x1000) : SameMemoryOutside a bs.length s (s.pokeBytes a bs) := by
  intro b outside
  have notStored : ¬ (a ≤ b ∧ b - a < bs.length) := by omega
  rw [State.peek_pokeBytes wf a bs inside, dif_neg notStored]

/-- An instruction that writes I, PC and memory leaves everything else. -/
theorem frame_of_memory_write (write : t = { s with i := t.i, pc := t.pc, mem := t.mem }) :
    SameRegs s t ∧ SameScreen s t ∧ SameRest s t := by
  rw [write]
  exact ⟨fun _ => rfl, fun _ _ => rfl, ⟨rfl, fun _ => rfl⟩, ⟨rfl, rfl⟩, ⟨rfl, rfl, rfl⟩, ⟨rfl, rfl⟩, rfl⟩

/-! ### LD B (R153) -/

/-- The bytes that LD B stores, as numbers: hundreds, tens, ones. -/
theorem toNat_peek_pokeBytes_decimalDigits (wf : s.mem.wf s.cfg.resetByte = true) {a : Nat} (inside : a + 3 ≤ 0x1000)
    (b : Byte) :
    ((s.pokeBytes a (decimalDigits b)).peek a).toNat = b.toNat / 100 ∧
      ((s.pokeBytes a (decimalDigits b)).peek (a + 1)).toNat = b.toNat / 10 % 10 ∧
      ((s.pokeBytes a (decimalDigits b)).peek (a + 2)).toNat = b.toNat % 10 := by
  have bound : b.toNat < 256 := b.isLt
  have stored (k : Fin 3) : (s.pokeBytes a (decimalDigits b)).peek (a + k.val) = (decimalDigits b)[k.val] :=
    State.peek_pokeBytes_within wf inside k.isLt
  refine ⟨(congrArg _ (stored 0)).trans (Nat.mod_eq_of_lt ?_),
    (congrArg _ (stored 1)).trans (Nat.mod_eq_of_lt ?_),
    (congrArg _ (stored 2)).trans (Nat.mod_eq_of_lt ?_)⟩ <;> omega

/-- The three quotients of a byte are decimal digits, and the digits of that byte. -/
theorem decimal_expansion (b : Byte) : b.toNat / 100 ≤ 9 ∧ b.toNat / 10 % 10 ≤ 9 ∧ b.toNat % 10 ≤ 9 ∧
    100 * (b.toNat / 100) + 10 * (b.toNat / 10 % 10) + b.toNat % 10 = b.toNat := by
  have bound : b.toNat < 256 := b.isLt
  omega

/-! ### LD [I] and LD Vx, [I] (R154, R155) -/

/-- I after a transfer that fits does not wrap, and is past the last byte or unchanged (D33). -/
theorem State.indexAfter_by_toggle (fits : s.i.toNat + x.val ≤ 0xFFF) :
    (s.cfg.iIncrement = true → (s.indexAfter x).toNat = s.i.toNat + x.val + 1) ∧
      (s.cfg.iIncrement = false → s.indexAfter x = s.i) := by
  refine ⟨fun set => ?_, fun clear => ?_⟩
  · rw [State.indexAfter, if_pos set, BitVec.toNat_add, BitVec.toNat_ofNat]
    omega
  · rw [State.indexAfter, if_neg (Bool.eq_false_iff.1 clear)]

/-- LD Vx, [I] loads the registers up to Vx and leaves those above. -/
theorem State.getElem_regsLoaded (k : Reg) :
    (s.regsLoaded x)[k.val] = if k ≤ x then s.peek (s.i.toNat + k.val) else s.reg k := by
  simp [State.regsLoaded, State.reg]

end Transfers

/-- Settles O28: within the bounds the three quotients are stored, outside them the test raises. -/
theorem decimalStoreRule : Obligations.DecimalStoreRule := by
  intro x s
  refine ⟨decodeWord_encode (i := .ldB x) rfl, fun wf fits => ?_, execLdB_outOfBounds_iff.2⟩
  have inside : s.i.toNat + (decimalDigits (s.reg x)).length ≤ 0x1000 := by rw [length_decimalDigits]; omega
  obtain ⟨hundreds, tens, ones⟩ := toNat_peek_pokeBytes_decimalDigits wf inside (s.reg x)
  have outside := sameMemoryOutside_pokeBytes wf inside
  refine ⟨_, execLdB_eq_next.2 ⟨rangeFits_iff.2 fits, rfl⟩, ?_⟩
  simp only [State.peek_advance, hundreds, tens, ones]
  obtain ⟨h, t, o, sum⟩ := decimal_expansion (s.reg x)
  exact ⟨h, t, o, sum, outside, rfl, rfl, frame_of_memory_write rfl⟩

/-- Settles O29: within the bounds each register is stored, outside them the test raises. -/
theorem registerDumpRule : Obligations.RegisterDumpRule := by
  intro x s
  refine ⟨decodeWord_encode (i := .dump x) rfl, fun wf fits => ?_, execDump_outOfBounds_iff.2⟩
  obtain ⟨past, unmoved⟩ := State.indexAfter_by_toggle fits
  have outside : SameMemoryOutside s.i.toNat (x.val + 1) s (s.pokeBytes s.i.toNat (s.regsTo x)) := by
    rw [← s.length_regsTo x]
    exact sameMemoryOutside_pokeBytes wf (by rw [State.length_regsTo]; omega)
  exact ⟨_, execDump_eq_next.2 ⟨rangeFits_iff.2 fits, rfl⟩, fun _ le => State.peek_pokeBytes_regsTo wf fits le,
    outside, past, unmoved, rfl, frame_of_memory_write rfl⟩

/-- Settles O30: within the bounds each register up to Vx is loaded, outside them the test raises. -/
theorem registerLoadRule : Obligations.RegisterLoadRule := by
  intro x s
  refine ⟨decodeWord_encode (i := .load x) rfl, fun fits => ?_, execLoad_outOfBounds_iff.2⟩
  obtain ⟨past, unmoved⟩ := State.indexAfter_by_toggle fits
  obtain ⟨memory, screen, rest⟩ := frame_of_register_write (s := s)
    (t := (State.setIndex { s with v := s.regsLoaded x } (s.indexAfter x)).advance) rfl
  exact ⟨_, execLoad_eq_next.2 ⟨rangeFits_iff.2 fits, rfl⟩, State.getElem_regsLoaded, memory, past, unmoved, rfl,
    screen, rest⟩

/-- Settles O25: I gets the immediate, widened. -/
theorem loadIndexRule : Obligations.LoadIndexRule := by
  intro nnn s
  refine ⟨decodeWord_encode (i := .ldI nnn) rfl, ?_⟩
  rw [BitVec.ofNat_toNat]
  exact setsIndex_of_exec rfl

end Sys2Proof.Machine

/-!
PROOFS. RND: Vx gets the byte that the counter draws, masked, and the counter advances (spec/45_random.md R160, R161).
-/

namespace Sys2Proof.Machine

/-- An instruction that writes general registers and PC and draws a byte leaves everything else. -/
theorem frame_of_draw_write {s t : State} (write : t = { s with v := t.v, pc := t.pc, draws := t.draws }) :
    SameMemory s t ∧ SameScreen s t ∧ SameStack s t ∧ SameTimers s t ∧ SameWait s t ∧ SameInputs s t := by
  rw [write]
  exact ⟨fun _ => rfl, fun _ _ => rfl, ⟨rfl, fun _ => rfl⟩, ⟨rfl, rfl⟩, ⟨rfl, rfl, rfl⟩, ⟨rfl, rfl⟩⟩

/-- Settles O31: the word is the word of RND, which executes to one register write after the draw, and a bit of the
byte written is the drawn bit masked by the bit of `nn`. -/
theorem randomRule : Obligations.RandomRule := by
  intro x nn s
  refine ⟨decodeWord_encode (i := .rnd x nn) rfl, (s.drawByte.2.setReg x (s.drawByte.1 &&& nn)).advance, rfl,
    fun k => ?_, sameRegsBut_setReg s.drawByte.2 x _, rfl, rfl, rfl, frame_of_draw_write rfl⟩
  rw [State.reg_advance, State.reg_setReg_same, BitVec.getLsbD_and, State.drawByte_fst]

end Sys2Proof.Machine

/-!
PROOFS. The display: CLS clears every pixel; DRW flips the pixels under the sprite and flags a collision, and is its
own inverse (spec/46_display.md R170 to R173).
-/

namespace Sys2Proof.Machine

section Display

variable {s t u w : State} {x y : Reg} {n : Nat} {row : Fin 32} {col : Fin 64}

/-- An instruction that writes general registers, the screen and PC leaves everything else. -/
theorem frame_of_screen_write (write : t = { s with v := t.v, fb := t.fb, pc := t.pc }) :
    t.i = s.i ∧ SameMemory s t ∧ SameRest s t := by
  rw [write]
  exact ⟨rfl, fun _ => rfl, ⟨rfl, fun _ => rfl⟩, ⟨rfl, rfl⟩, ⟨rfl, rfl, rfl⟩, ⟨rfl, rfl⟩, rfl⟩

/-! ### The pixels under the sprite (R172) -/

/-- The pixels of the bytes read from I on are those under the sprite. -/
theorem spritePixels_peekBytes_iff :
    spritePixels (s.reg x).toNat (s.reg y).toNat (s.peekBytes s.i.toNat n) row col ↔ SpriteCovers s x y n row col := by
  constructor
  · rintro ⟨r, c, inSprite, inRow, bit, rfl, rfl⟩
    rw [State.getElem_peekBytes] at bit
    exact ⟨r, c, by simpa using inSprite, inRow, bit, rfl, rfl⟩
  · rintro ⟨r, c, inSprite, inRow, bit, atRow, atCol⟩
    refine ⟨r, c, by simpa using inSprite, inRow, ?_, Fin.ext atRow, Fin.ext atCol⟩
    rwa [State.getElem_peekBytes]

/-- The pixels under the sprite depend on I, the sprite's bytes and its coordinates alone. -/
theorem spriteCovers_congr (index : u.i = s.i)
    (bytes : ∀ k, k < n → u.peek (s.i.toNat + k) = s.peek (s.i.toNat + k)) (left : u.reg x = s.reg x)
    (top : u.reg y = s.reg y) : SpriteCovers u x y n row col ↔ SpriteCovers s x y n row col := by
  unfold SpriteCovers
  rw [index, left, top]
  refine exists_congr fun r => exists_congr fun c => and_congr_right fun inSprite => ?_
  rw [bytes r inSprite]

theorem flipped_drawSprite (short : n ≤ 15) :
    Canvas.Flipped (SpriteCovers s x y n) { fb := s.fb, hit := false } (s.drawSprite x y n) := by
  have rows : (s.peekBytes s.i.toNat n).length ≤ 32 := by rw [State.length_peekBytes]; omega
  exact (Canvas.flipped_plotRows _ _ _ rows _).congr fun _ _ => spritePixels_peekBytes_iff

/-! ### DRW (R171, R173) -/

/-- What DRW does to the screen and VF: it flips the pixels under the sprite, and VF says whether one was set. -/
structure DrawsSprite (s : State) (x y : Reg) (n : Nat) (t : State) : Prop where
  flips : ∀ row col, SpriteCovers s x y n row col → t.fb.pixel row col = !s.fb.pixel row col
  keeps : ∀ row col, ¬ SpriteCovers s x y n row col → t.fb.pixel row col = s.fb.pixel row col
  collision : (∃ row col, SpriteCovers s x y n row col ∧ s.fb.pixel row col = true) → t.reg 15 = 1#8
  noCollision : (∀ row col, SpriteCovers s x y n row col → s.fb.pixel row col = false) → t.reg 15 = 0#8

theorem drawsSprite_of_execDrw (short : n ≤ 15) (h : execDrw x y n s = .next t) : DrawsSprite s x y n t := by
  obtain ⟨-, rfl⟩ := execDrw_eq_next.1 h
  obtain ⟨flips, keeps, hits⟩ := flipped_drawSprite (s := s) (x := x) (y := y) short
  refine ⟨flips, keeps, fun someSet => ?_, fun noneSet => ?_⟩
  · have hit : (s.drawSprite x y n).hit = true := hits.2 (.inr someSet)
    rw [State.reg_advance, State.reg_setFlag, hit]
    rfl
  · have noHit : (s.drawSprite x y n).hit = false := by
      rw [Bool.eq_false_iff, Ne, hits]
      rintro (before | ⟨row, col, covered, isSet⟩)
      · cases before
      · exact Bool.eq_false_iff.1 (noneSet row col covered) isSet
    rw [State.reg_advance, State.reg_setFlag, noHit]
    rfl

/-- A draw completes where its bytes fit, and leaves what is neither the screen nor VF. -/
theorem execDrw_of_fits (x y : Reg) (fits : n = 0 ∨ s.i.toNat + n ≤ 0x1000) :
    ∃ t, execDrw x y n s = .next t ∧ SameRegsBut (fun r => r = 15) s t ∧ t.pc = s.pc + 2#16 ∧ t.i = s.i ∧
      SameMemory s t ∧ SameRest s t := by
  have inBounds : spriteFits s.i.toNat n = true := by
    rw [← Bool.not_eq_false, spriteFits_eq_false_iff]
    omega
  exact ⟨_, execDrw_eq_next.2 ⟨inBounds, rfl⟩, fun r other => State.reg_setReg_other _ _ other, rfl,
    frame_of_screen_write rfl⟩

/-- A pixel flipped twice is as at first (R173). -/
theorem DrawsSprite.pixel_twice (first : DrawsSprite s x y n t) (second : DrawsSprite u x y n w) (fb : u.fb = t.fb)
    (same : SpriteCovers u x y n row col ↔ SpriteCovers s x y n row col) :
    w.fb.pixel row col = s.fb.pixel row col := by
  by_cases covered : SpriteCovers s x y n row col
  · rw [second.flips row col (same.2 covered), fb, first.flips row col covered, Bool.not_not]
  · rw [second.keeps row col (mt same.1 covered), fb, first.keeps row col covered]

end Display

/-- Settles O15: the new screen is blank, and CLS writes no register. -/
theorem clearScreenRule : Obligations.ClearScreenRule :=
  ⟨decodeWord_encode (i := .cls) rfl, fun s =>
    ⟨(s.setScreen Framebuffer.blank).advance, rfl, Framebuffer.pixel_blank, rfl, fun _ => rfl,
      frame_of_screen_write rfl⟩⟩

/-- Settles O32: the draw completes exactly when its bytes fit, and its canvas flips each pixel under the sprite once. -/
theorem drawRule : Obligations.DrawRule := by
  intro x y n s short
  refine ⟨decodeWord_encode_drw x y short, fun fits => ?_, fun rows beyond => execDrw_outOfBounds_iff.2 ⟨rows, beyond⟩⟩
  obtain ⟨t, completes, frame⟩ := execDrw_of_fits x y fits
  obtain ⟨flips, keeps, collision, noCollision⟩ := drawsSprite_of_execDrw short completes
  exact ⟨t, completes, flips, keeps, collision, noCollision, frame⟩

/-- Settles O33: the second draw covers the same pixels, and finds each of them flipped. -/
theorem drawTwiceRestores : Obligations.DrawTwiceRestores := by
  intro x y n s t u short h fb index bytes left top
  have same (row col) : SpriteCovers u x y n row col ↔ SpriteCovers s x y n row col :=
    spriteCovers_congr index bytes left top
  have first : DrawsSprite s x y n t := drawsSprite_of_execDrw short h
  obtain ⟨fits, -⟩ := execDrw_eq_next.1 h
  have completes := execDrw_eq_next (s := u) (x := x) (y := y) (n := n).2 ⟨index ▸ fits, rfl⟩
  have second := drawsSprite_of_execDrw short completes
  have flipped {row col} (covered : SpriteCovers s x y n row col) : u.fb.pixel row col = !s.fb.pixel row col := by
    rw [fb, first.flips row col covered]
  refine ⟨_, completes, fun row col => first.pixel_twice second fb (same row col), ?_, fun allSet => ?_⟩
  · rintro ⟨row, col, covered, clear⟩
    exact second.collision ⟨row, col, (same row col).2 covered, by rw [flipped covered, clear]; rfl⟩
  · refine second.noCollision fun row col coveredAgain => ?_
    have covered := (same row col).1 coveredAgain
    rw [flipped covered, allSet row col covered]
    rfl

end Sys2Proof.Machine

/-!
PROOFS. The errors and the dead states: which instruction raises a stack error, which word raises InvalidOpcode, and
that a state whose step raises goes on raising (spec/60_exceptions.md R200 to R202, R221 to R223).
-/

namespace Sys2Proof.Machine

/-! ### What an instruction can raise (R201 to R203) -/

section Errors

variable {s : State} {i : Instr} {k : Fault}

theorem execRet_underflow_iff : execRet s = .fault .stackUnderflow ↔ s.sp.val = 0 := by
  refine ⟨fun h => ?_, execRet_of_empty⟩
  by_contra inUse
  cases (execRet_eq_next.2 ⟨Nat.pos_of_ne_zero inUse, rfl⟩).symm.trans h

theorem execCall_overflow_iff {nnn : BitVec 12} : execCall nnn s = .fault .stackOverflow ↔ s.sp.val = 16 := by
  refine ⟨fun h => ?_, execCall_of_full⟩
  by_contra notFull
  cases (execCall_eq_next.2 ⟨by omega, rfl⟩).symm.trans h

/-- An instruction raises as RET, as CALL, or by a bounds test. -/
theorem exec_fault_cases (h : exec i s = .fault k) :
    (i = .ret ∧ k = .stackUnderflow ∧ s.sp.val = 0) ∨
      ((∃ nnn, i = .call nnn) ∧ k = .stackOverflow ∧ s.sp.val = 16) ∨ k = .memoryOutOfBounds := by
  cases i
  case ret =>
    obtain rfl := fault_of_execRet h
    exact .inl ⟨rfl, rfl, execRet_underflow_iff.1 h⟩
  case call nnn =>
    obtain rfl := fault_of_execCall h
    exact .inr (.inl ⟨⟨nnn, rfl⟩, rfl, execCall_overflow_iff.1 h⟩)
  case drw | ldB | dump | load => exact .inr (.inr (fault_of_guarded h))
  all_goals cases h

end Errors

/-- Settles O12: RET and CALL raise by SP alone, and every other error of an instruction is a bounds error. -/
theorem stackErrorsExactly : Obligations.StackErrorsExactly := by
  refine fun i s => ⟨⟨fun h => ?_, ?_⟩, fun h => ?_, ?_⟩
  · obtain ⟨-, ⟨⟩, -⟩ | ⟨isCall, -, full⟩ | ⟨⟨⟩⟩ := exec_fault_cases h
    exact ⟨isCall, full⟩
  · rintro ⟨⟨nnn, rfl⟩, full⟩
    exact execCall_of_full full
  · obtain ⟨isRet, -, empty⟩ | ⟨-, ⟨⟩, -⟩ | ⟨⟨⟩⟩ := exec_fault_cases h
    exact ⟨isRet, empty⟩
  · rintro ⟨rfl, empty⟩
    exact execRet_of_empty empty

/-! ### What a step can raise (R200, R208) -/

section StepErrors

variable {s : State} {k : Fault}

/-- The three sources of an error of a step: the fetch, the decode and the instruction. -/
theorem step_eq_fault : step s = .fault k ↔ s.mode = .running ∧
    (s.fetch = .error k ∨ ∃ op, s.fetch = .ok op ∧
      ((∃ e, decodeWord op = .error e) ∧ k = .invalidOpcode ∨ ∃ i, decodeWord op = .ok i ∧ exec i s = .fault k)) := by
  cases mode : s.mode with
  | awaitingKey => simp [step_of_waiting mode]
  | running =>
    obtain ⟨f, fetch⟩ | ⟨op, fetch, ⟨e, decoded⟩ | ⟨i, decoded⟩⟩ := fetch_decode_cases s
    · simp [step_of_fetch_error mode fetch, fetch]
    · simp [step_of_decode_error mode fetch decoded, fetch, decoded, eq_comm]
    · simp [step_of_decode_ok mode fetch decoded, fetch, decoded]

/-- The words that no instruction has are those in no row of the table (R74, R75). -/
theorem decodeWord_fails_iff {op : Word} :
    (∃ e, decodeWord op = .error e) ↔ ∀ row ∈ opcodeTable, op &&& row.1 ≠ row.2 := by
  constructor
  · rintro ⟨e, failed⟩ row mem inRow
    obtain ⟨i, decoded, -⟩ := decodeWord_of_mem_opcodeTable mem inRow
    cases failed.symm.trans decoded
  · intro noRow
    cases decoded : decodeWord op with
    | error e => exact ⟨e, rfl⟩
    | ok i =>
      obtain ⟨mem, inRow⟩ := decodingFollowsTheOpcodeTable.1 op i decoded
      exact absurd inRow (noRow _ mem)

/-- InvalidOpcode comes from the decode alone: the fetch and the instructions have errors of other kinds. -/
theorem step_invalidOpcode_iff : step s = .fault .invalidOpcode ↔
    s.mode = .running ∧ ∃ op, s.fetch = .ok op ∧ ∃ e, decodeWord op = .error e := by
  have notFetch : s.fetch ≠ .error .invalidOpcode := by simp [Ne, State.fetch_eq_error]
  have notExec (i : Instr) : exec i s ≠ .fault .invalidOpcode := fun h => by simpa using exec_fault_kind h
  simp [step_eq_fault, notFetch, notExec]

/-- A `step` transaction that raises reports the kind and changes nothing (R221). -/
theorem transact_step_of_fault (dead : step s = .fault k) : transact s .step = .ok (s, .error k) := by
  rw [transact, dead, stepResponse]

end StepErrors

/-- Settles O11: the decode raises it exactly for the words in no row, and a raising transaction keeps its state. -/
theorem unmatchedWordRaisesInvalidOpcode : Obligations.UnmatchedWordRaisesInvalidOpcode := by
  refine fun s => ⟨?_, transact_step_of_fault⟩
  simp only [step_invalidOpcode_iff, decodeWord_fails_iff]

/-! ### Dead states (R222, R223) -/

section Dead

variable {s t u : State} {i : Instr} {k : Fault}

/-- Whether and how an instruction raises is a matter of SP and I alone. -/
theorem exec_fault_congr (sp : t.sp = s.sp) (index : t.i = s.i) (h : exec i s = .fault k) : exec i t = .fault k := by
  obtain rfl | rfl | rfl := exec_fault_kind h
  · rw [(stackErrorsExactly i _).1] at h ⊢
    rwa [sp]
  · rw [(stackErrorsExactly i _).2] at h ⊢
    rwa [sp]
  · rw [(memoryErrorsExactly i _).1] at h ⊢
    rwa [index]

/-- No error of a step depends on the timers or the keys. -/
theorem SameButTimersAndKeys.deadWith (same : SameButTimersAndKeys s t) (dead : s.DeadWith k) : t.DeadWith k := by
  obtain ⟨dt, st, keys, rfl⟩ := same
  obtain ⟨running, fetch | ⟨op, fetch, decode | ⟨i, decoded, raises⟩⟩⟩ := step_eq_fault.1 dead
  · exact step_eq_fault.2 ⟨running, .inl fetch⟩
  · exact step_eq_fault.2 ⟨running, .inr ⟨op, fetch, .inl decode⟩⟩
  · exact step_eq_fault.2 ⟨running, .inr ⟨op, fetch, .inr ⟨i, decoded, exec_fault_congr (s := s) rfl rfl raises⟩⟩⟩

theorem SameButTimersAndKeys.trans (first : SameButTimersAndKeys s u) (second : SameButTimersAndKeys u t) :
    SameButTimersAndKeys s t := by
  obtain ⟨dt, st, keys, rfl⟩ := first
  obtain ⟨dt', st', keys', rfl⟩ := second
  exact ⟨dt', st', keys', rfl⟩

/-- Everything a transaction between two steps, or a step, can make of the state (R217). -/
theorem transact_running_cases {a : Transaction} {r : Response} (running : a.isRunning = true)
    (h : transact s a = .ok (t, r)) :
    t = s ∨ step s = .next t ∨ t = s.tickTimers ∨ ∃ j p, t = s.setKey j p := by
  cases a with
  | configure | reset | loadRom => cases running
  | step =>
    obtain ⟨stepped, -⟩ | ⟨-, -, same, -⟩ := stepResponse_eq_ok.1 h
    · exact .inr (.inl stepped)
    · exact .inl same
  | tickTimers => cases h; exact .inr (.inr (.inl rfl))
  | setKey index pressed =>
    simp only [transact] at h
    split at h <;> cases h
    exact .inr (.inr (.inr ⟨_, _, rfl⟩))
  | framebufferSnapshot | soundActive => cases h; exact .inl rfl

/-- From a dead state no step answers a next state, so the timers and the keys are all that can move. -/
theorem sameButTimersAndKeys_of_dead {a : Transaction} {r : Response} (dead : s.DeadWith k)
    (running : a.isRunning = true) (same : SameButTimersAndKeys s t) (h : transact t a = .ok (u, r)) :
    SameButTimersAndKeys s u := by
  refine same.trans ?_
  obtain rfl | stepped | rfl | ⟨j, p, rfl⟩ := transact_running_cases running h
  · exact ⟨_, _, _, rfl⟩
  · cases (same.deadWith dead).symm.trans stepped
  · exact ⟨_, _, _, rfl⟩
  · exact ⟨_, _, _, rfl⟩

end Dead

/-- Settles O14: along the transactions of a run the state stays the dead one but for the timers and the keys, on which
no error depends. -/
theorem deadStateStaysDead : Obligations.DeadStateStaysDead := by
  intro s s' k ts rs dead running h
  have same : SameButTimersAndKeys s s' :=
    transactAll_keeps (fun a mem => sameButTimersAndKeys_of_dead dead (running a mem)) ⟨_, _, _, rfl⟩ h
  have stillDead : step s' = .fault k := same.deadWith dead
  refine ⟨stillDead, transact_step_of_fault stillDead, ?_⟩
  obtain ⟨dt, st, keys, rfl⟩ := same
  rfl

end Sys2Proof.Machine

/-!
PROOFS. The timers: the three timer instructions, a tick and a row of ticks, and that a tick commutes with every step
that runs no timer instruction (spec/48_timers.md R190 to R192, spec/60_exceptions.md R205, R206).
-/

namespace Sys2Proof.Machine

/-! ### The timer instructions and the tick -/

section Timers

variable {s t u : State} {m n : Nat}

/-- What writes the timers and PC leaves everything else. -/
theorem frame_of_timer_write (write : t = { s with dt := t.dt, st := t.st, pc := t.pc }) :
    SameRegs s t ∧ t.i = s.i ∧ SameMemory s t ∧ SameScreen s t ∧ SameStack s t ∧ SameWait s t ∧ SameInputs s t ∧
      t.draws = s.draws := by
  rw [write]
  exact ⟨fun _ => rfl, rfl, fun _ => rfl, fun _ _ => rfl, ⟨rfl, fun _ => rfl⟩, ⟨rfl, rfl, rfl⟩, ⟨rfl, rfl⟩, rfl⟩

/-- A tick takes 1 off a counter, and natural subtraction floors at 0 (R205). -/
theorem toNat_tickDown (b : Byte) : (tickDown b).toNat = b.toNat - 1 := by
  unfold tickDown
  split
  · bv_omega
  · omega

/-- Both timers are lower by `n`, floored at 0. -/
def CountedDown (n : Nat) (s t : State) : Prop := t.dt.toNat = s.dt.toNat - n ∧ t.st.toNat = s.st.toNat - n

theorem countedDown_zero (s : State) : CountedDown 0 s s := ⟨rfl, rfl⟩

theorem countedDown_tickTimers (s : State) : CountedDown 1 s s.tickTimers := ⟨toNat_tickDown s.dt, toNat_tickDown s.st⟩

theorem CountedDown.trans (first : CountedDown m s u) (second : CountedDown n u t) : CountedDown (n + m) s t := by
  obtain ⟨dt, st⟩ := first
  obtain ⟨dt', st'⟩ := second
  constructor <;> omega

theorem transactAll_cons_of_ok {a : Transaction} {ts : List Transaction} {r : Response} {rs : List Response}
    (one : transact s a = .ok (u, r)) (rest : transactAll u ts = .ok (t, rs)) :
    transactAll s (a :: ts) = .ok (t, r :: rs) := by
  simp only [transactAll, one, rest]

theorem transactAll_ticks (s : State) (n : Nat) :
    ∃ t, transactAll s (List.replicate n .tickTimers) = .ok (t, List.replicate n .ok) ∧ CountedDown n s t := by
  induction n generalizing s with
  | zero => exact ⟨s, rfl, countedDown_zero s⟩
  | succ n ih =>
    obtain ⟨t, ticks, counted⟩ := ih s.tickTimers
    exact ⟨t, transactAll_cons_of_ok rfl ticks, (countedDown_tickTimers s).trans counted⟩

end Timers

/-- Settles O37: each instruction executes to one write, of Vx, of DT or of ST. -/
theorem timerAccessRules : Obligations.TimerAccessRules := fun x s =>
  ⟨decodeWord_encode (i := .ldVxDt x) rfl, decodeWord_encode (i := .ldDtVx x) rfl,
    decodeWord_encode (i := .ldStVx x) rfl, setsRegs_of_exec_setReg rfl,
    ⟨(s.setDelay (s.reg x)).advance, rfl, rfl, rfl, rfl, frame_of_timer_write rfl⟩,
    ⟨(s.setSound (s.reg x)).advance, rfl, rfl, rfl, rfl, frame_of_timer_write rfl⟩⟩

/-- Settles O38: a tick is one count of both timers and writes nothing else. -/
theorem tickRule : Obligations.TickRule := by
  intro s
  obtain ⟨dt, st⟩ := countedDown_tickTimers s
  obtain ⟨regs, others⟩ := frame_of_timer_write (s := s) (t := s.tickTimers) rfl
  exact ⟨s.tickTimers, rfl, dt, st, regs, rfl, others⟩

/-- Settles O39, by induction on the number of ticks: each of them is one count more. -/
theorem ticksCountDown : Obligations.TicksCountDown := transactAll_ticks

/-! ### A tick and a step that runs no timer instruction (R206, R217) -/

section TickAndStep

variable {s : State} {i : Instr}

/-- An update commutes with a step when it leaves what the fetch reads and commutes with what the step then does. -/
theorem step_commutes {f : State → State} (mode : (f s).mode = s.mode) (fetch : (f s).fetch = s.fetch)
    (poll : (f s).pollKey = f s.pollKey)
    (instr : ∀ i, AboutToRun s i → exec i (f s) = Result.mapNext f (exec i s)) :
    step (f s) = Result.mapNext f (step s) := by
  cases hm : s.mode with
  | awaitingKey => rw [step_of_waiting hm, step_of_waiting (mode.trans hm), poll]; rfl
  | running =>
    have hm' := mode.trans hm
    obtain ⟨k, hf⟩ | ⟨op, hf, ⟨e, hd⟩ | ⟨i, hd⟩⟩ := fetch_decode_cases s
    · rw [step_of_fetch_error hm hf, step_of_fetch_error hm' (fetch.trans hf)]; rfl
    · rw [step_of_decode_error hm hf hd, step_of_decode_error hm' (fetch.trans hf) hd]; rfl
    · rw [step_of_decode_ok hm hf hd, step_of_decode_ok hm' (fetch.trans hf) hd]
      exact instr i (aboutToRun_of_fetch hm hf hd)

theorem pollKey_tickTimers (s : State) : s.tickTimers.pollKey = s.pollKey.tickTimers := by
  cases least : leastKey s.newKeys with
  | none => rw [pollKey_of_none least, pollKey_of_none (s := s.tickTimers) least]; rfl
  | some k => rw [pollKey_of_some least, pollKey_of_some (s := s.tickTimers) least]; rfl

theorem execRet_tickTimers (s : State) : execRet s.tickTimers = Result.mapNext State.tickTimers (execRet s) := by
  obtain empty | inUse := Nat.eq_zero_or_pos s.sp.val
  · rw [execRet_of_empty empty, execRet_of_empty (s := s.tickTimers) empty]; rfl
  · rw [execRet_eq_next.2 ⟨inUse, rfl⟩, execRet_eq_next (s := s.tickTimers).2 ⟨inUse, rfl⟩]; rfl

theorem execCall_tickTimers (nnn : BitVec 12) (s : State) :
    execCall nnn s.tickTimers = Result.mapNext State.tickTimers (execCall nnn s) := by
  obtain room | full := Nat.lt_or_eq_of_le (Nat.le_of_lt_succ s.sp.isLt)
  · rw [execCall_eq_next.2 ⟨room, rfl⟩, execCall_eq_next (s := s.tickTimers).2 ⟨room, rfl⟩]; rfl
  · rw [execCall_of_full full, execCall_of_full (s := s.tickTimers) full]; rfl

/-- Every instruction but the three timer instructions neither reads nor writes a timer. -/
theorem exec_tickTimers (noTimer : ¬ usesTimers i) :
    exec i s.tickTimers = Result.mapNext State.tickTimers (exec i s) := by
  cases i
  case ldVxDt x => exact absurd ⟨x, .inl rfl⟩ noTimer
  case ldDtVx x => exact absurd ⟨x, .inr (.inl rfl)⟩ noTimer
  case ldStVx x => exact absurd ⟨x, .inr (.inr rfl)⟩ noTimer
  case ret => exact execRet_tickTimers s
  case call nnn => exact execCall_tickTimers nnn s
  case drw x y n =>
    have drawn := State.drawSprite_congr (s := s) (t := s.tickTimers) rfl rfl rfl rfl rfl x y n
    simp only [exec, execDrw, drawn, Result.mapNext_ite]
    rfl
  case addI x =>
    simp only [exec, execAddI_eq_ite, Result.mapNext_ite]
    rfl
  case ldB | dump | load =>
    simp only [exec, execLdB, execDump, execLoad, Result.mapNext_ite]
    rfl
  all_goals rfl

end TickAndStep

/-- Settles O50: a tick leaves MODE and the fetch, and commutes with the poll and with the instruction. -/
theorem ticksCommuteWithSteps : Obligations.TicksCommuteWithSteps := by
  intro s noTimer
  have commutes : step s.tickTimers = Result.mapNext State.tickTimers (step s) :=
    step_commutes rfl (State.fetch_congr rfl rfl rfl) (pollKey_tickTimers s) fun i runs =>
      exec_tickTimers (noTimer i runs)
  rw [commutes]
  exact ⟨fun _ stepped => by rw [stepped, Result.mapNext], fun _ faulted => by rw [faulted, Result.mapNext]⟩

end Sys2Proof.Machine

/-!
PROOFS. The keypad: the key skips, the start of a key wait and its poll, a wait under steps and ticks, and set_key
(spec/47_keypad.md R180 to R184, spec/60_exceptions.md R210).
-/

namespace Sys2Proof.Machine

/-- Settles O20: the test of each skip is the key's bit, or its negation. -/
theorem keySkipRules : Obligations.KeySkipRules := fun x _ =>
  ⟨decodeWord_encode (i := .skp x) rfl, decodeWord_encode (i := .sknp x) rfl, skipsWhen_of_exec rfl Iff.rfl,
    skipsWhen_of_exec rfl (by rw [Bool.not_eq_true']; rfl)⟩

/-! ### The key wait (R182, R183) -/

section KeyWait

variable {s t u : State} {k : Key}

/-- The start of a wait and its polls write general registers, PC and the wait, and leave everything else. -/
theorem frame_of_wait_write
    (write : t = { s with v := t.v, pc := t.pc, mode := t.mode, waitX := t.waitX, kprev := t.kprev }) :
    t.i = s.i ∧ SameMemory s t ∧ SameScreen s t ∧ SameStack s t ∧ SameTimers s t ∧ SameInputs s t ∧
      t.draws = s.draws := by
  rw [write]
  exact ⟨rfl, fun _ => rfl, fun _ _ => rfl, ⟨rfl, fun _ => rfl⟩, ⟨rfl, rfl⟩, ⟨rfl, rfl⟩, rfl⟩

theorem leastKey_newKeys_eq_none : leastKey s.newKeys = none ↔ ∀ k, ¬ NewlyDown s k := by
  simp only [newlyDown_iff_newKeys, leastKey, List.find?_eq_none, List.mem_finRange, true_imp_iff]

theorem leastKey_newKeys_eq_some : leastKey s.newKeys = some k ↔ NewlyDown s k ∧ ∀ j, j < k → ¬ NewlyDown s j := by
  simp only [newlyDown_iff_newKeys, leastKey_eq_some, Bool.not_eq_true]

theorem step_of_no_new_key (waits : s.mode = .awaitingKey) (noKey : ∀ k, ¬ NewlyDown s k) :
    step s = .next { s with kprev := s.keys } := by
  rw [step_of_waiting waits, pollKey_of_none (leastKey_newKeys_eq_none.2 noKey)]

theorem step_of_new_key (waits : s.mode = .awaitingKey) (new : NewlyDown s k)
    (least : ∀ j, j < k → ¬ NewlyDown s j) : step s = .next (s.endWait k) := by
  rw [step_of_waiting waits, pollKey_of_some (leastKey_newKeys_eq_some.2 ⟨new, least⟩)]

/-- The register that waits gets the key's index, which a byte holds. -/
theorem toNat_reg_endWait (s : State) (k : Key) : ((s.endWait k).reg s.waitX).toNat = k.val := by
  have written : (s.endWait k).reg s.waitX = BitVec.ofNat 8 k.val := s.reg_setReg_same s.waitX _
  rw [written, BitVec.toNat_ofNat]
  omega

end KeyWait

/-- Settles O34: LD Vx, K writes the wait alone. -/
theorem keyWaitStartRule : Obligations.KeyWaitStartRule := fun x s =>
  ⟨decodeWord_encode (i := .ldVxK x) rfl, { s with waitX := x, kprev := s.keys, mode := .awaitingKey }, rfl, rfl, rfl,
    rfl, rfl, fun _ => rfl, frame_of_wait_write rfl⟩

/-- Settles O35: with no new key the poll writes KPREV alone, with a least new key it is `endWait`. -/
theorem keyWaitPollRule : Obligations.KeyWaitPollRule := fun s waits =>
  ⟨fun noKey => ⟨_, step_of_no_new_key waits noKey, rfl, waits, rfl, rfl, fun _ => rfl, frame_of_wait_write rfl⟩,
    fun k new least => ⟨_, step_of_new_key waits new least, toNat_reg_endWait s k, rfl, rfl, rfl, rfl,
      sameRegsBut_setReg s s.waitX _, frame_of_wait_write rfl⟩⟩

/-! ### A wait under steps and ticks (R225) -/

/-- The core waits and no key is newly down, so the wait goes on. -/
structure State.KeepsWaiting (s : State) : Prop where
  mode : s.mode = .awaitingKey
  noKey : ∀ k, ¬ NewlyDown s k

/-- The states a wait passes through: only the timers and the latched keys move. -/
def SameButTimersAndLatch (s t : State) : Prop := ∃ dt st kprev, t = { s with dt, st, kprev }

section WaitGoesOn

variable {s t u : State}

theorem SameButTimersAndLatch.trans (first : SameButTimersAndLatch s u) (second : SameButTimersAndLatch u t) :
    SameButTimersAndLatch s t := by
  obtain ⟨dt, st, kprev, rfl⟩ := first
  obtain ⟨dt', st', kprev', rfl⟩ := second
  exact ⟨dt', st', kprev', rfl⟩

/-- A poll latches the keys, so afterwards none of them is newly down. -/
theorem State.KeepsWaiting.latch (waits : s.KeepsWaiting) : State.KeepsWaiting { s with kprev := s.keys } :=
  ⟨waits.mode, fun _ ⟨down, up⟩ => Bool.eq_false_iff.1 up down⟩

theorem State.KeepsWaiting.tickTimers (waits : s.KeepsWaiting) : s.tickTimers.KeepsWaiting :=
  ⟨waits.mode, waits.noKey⟩

theorem State.KeepsWaiting.transact_step (waits : s.KeepsWaiting) :
    transact s .step = .ok ({ s with kprev := s.keys }, .ok) := by
  rw [transact, step_of_no_new_key waits.mode waits.noKey, stepResponse]

/-- By induction on the transactions: a step polls in vain, a tick counts down. -/
theorem State.KeepsWaiting.exists_run {ts : List Transaction} (waits : s.KeepsWaiting)
    (allowed : ∀ a ∈ ts, a = .step ∨ a = .tickTimers) :
    ∃ t rs, transactAll s ts = .ok (t, rs) ∧ SameButTimersAndLatch s t ∧
      CountedDown (ts.count .tickTimers) s t := by
  induction ts generalizing s with
  | nil => exact ⟨s, [], rfl, ⟨_, _, _, rfl⟩, countedDown_zero s⟩
  | cons a ts ih =>
    have later : ∀ b ∈ ts, b = .step ∨ b = .tickTimers := fun b mem => allowed b (.tail a mem)
    obtain rfl | rfl := allowed a (.head ts)
    · obtain ⟨t, rs, run, same, counted⟩ := ih waits.latch later
      refine ⟨t, _, transactAll_cons_of_ok waits.transact_step run, .trans ⟨_, _, _, rfl⟩ same, ?_⟩
      rw [List.count_cons_of_ne (by decide)]
      exact counted
    · obtain ⟨t, rs, run, same, counted⟩ := ih waits.tickTimers later
      refine ⟨t, _, transactAll_cons_of_ok rfl run, .trans ⟨_, _, _, rfl⟩ same, ?_⟩
      rw [List.count_cons_self]
      exact (countedDown_tickTimers s).trans counted

end WaitGoesOn

/-- Settles O36: the run writes the timers and the latch alone, and counts its ticks. -/
theorem waitHoldsWhileTimersRun : Obligations.WaitHoldsWhileTimersRun := by
  intro s ts waits noKey allowed
  obtain ⟨t, rs, run, ⟨dt, st, kprev, rfl⟩, counted⟩ := State.KeepsWaiting.exists_run ⟨waits, noKey⟩ allowed
  exact ⟨_, rs, run, waits, rfl, rfl, fun _ => rfl, rfl, fun _ => rfl, fun _ _ => rfl, ⟨rfl, fun _ => rfl⟩, ⟨rfl, rfl⟩,
    counted⟩

/-! ### set_key (R210) -/

/-- The mask of a key holds its bit alone. -/
theorem getLsbD_keyMask (k j : Key) : (1#16 <<< k.val).getLsbD j.val = decide (j.val = k.val) := by
  rw [← BitVec.twoPow_eq, BitVec.getLsbD_twoPow]
  simp [eq_comm]

theorem getLsbD_keys_setKey (s : State) (k j : Key) (pressed : Bool) :
    (s.setKey k pressed).keys.getLsbD j.val = if j.val = k.val then pressed else s.keys.getLsbD j.val := by
  cases pressed with
  | false =>
    rw [State.setKey_keys, if_neg Bool.false_ne_true, BitVec.getLsbD_and, BitVec.getLsbD_not, getLsbD_keyMask]
    by_cases same : j.val = k.val <;> simp [same]
  | true =>
    rw [State.setKey_keys, if_pos rfl, BitVec.getLsbD_or, getLsbD_keyMask]
    by_cases same : j.val = k.val <;> simp [same]

/-- Settles O58: the bit that is written is the one of the key, and an index above 15 is no key. -/
theorem setKeyRule : Obligations.SetKeyRule := by
  refine fun s k pressed => ⟨fun isKey => ?_, fun noKey => dif_neg (Nat.not_lt.2 noKey)⟩
  exact ⟨s.setKey ⟨k, isKey⟩ pressed, dif_pos isKey, fun j => getLsbD_keys_setKey s ⟨k, isKey⟩ j pressed, fun _ => rfl,
    rfl, rfl, fun _ => rfl, fun _ _ => rfl, ⟨rfl, fun _ => rfl⟩, ⟨rfl, rfl⟩, ⟨rfl, rfl, rfl⟩, rfl, rfl⟩

end Sys2Proof.Machine

/-!
PROOFS. Reset, load_rom, boot and the two host reads (spec/60_exceptions.md R211, R212, spec/70_reset_and_hazards.md
R240 to R245).
-/

namespace Sys2Proof.Machine

/-- Settles O47: `State.reset` is the reset state of the default configuration. -/
theorem invariantAtReset : Obligations.InvariantAtReset := ⟨inv_resetWith _ _, inv_resetWith⟩

/-- Settles O55: the reset state field by field; the vectors hold one value throughout. -/
theorem resetRegisterValues : Obligations.ResetRegisterValues := fun s =>
  ⟨s.resetTransaction, rfl, fun _ => Vector.getElem_replicate _, rfl, rfl, rfl, fun _ => Vector.getElem_replicate _,
    rfl, rfl, Framebuffer.pixel_blank, rfl, rfl, rfl, rfl, rfl, rfl⟩

/-! ### load_rom and boot (R243, R244) -/

section Load

variable {s t : State} {bytes : List Byte} {addr : Nat}

theorem wf_of_isFresh (fresh : s.isFresh = true) : s.mem.wf s.cfg.resetByte = true := by
  rw [State.isFresh_iff.1 fresh]
  rfl

/-- A load that fails one of its tests (R243). -/
theorem State.loadRom_of_unfit (unfit : addr < 0x200 ∨ 0xFFF < addr ∨ 0x1000 - addr < bytes.length) :
    s.loadRom bytes addr = .error .memoryOutOfBounds := by
  unfold State.loadRom
  split
  · rfl
  · next inside =>
    have long : bytes.length > 0x1000 - addr := by omega
    rw [if_pos long]

/-- What a load puts in memory, what it leaves there, and where it sends PC. -/
theorem loadRom_memory_pc (wf : s.mem.wf s.cfg.resetByte = true) (h : s.loadRom bytes addr = .ok t) :
    (∀ k b, bytes[k]? = some b → t.peek (addr + k) = b) ∧ SameMemoryOutside addr bytes.length s t ∧
      t.pc.toNat = addr := by
  obtain ⟨-, high, fits, rfl⟩ := State.loadRom_eq_ok.1 h
  have inside : addr + bytes.length ≤ 0x1000 := by omega
  refine ⟨fun k b image => ?_, sameMemoryOutside_pokeBytes wf inside, ?_⟩
  · obtain ⟨stored, rfl⟩ := List.getElem?_eq_some_iff.1 image
    exact State.peek_pokeBytes_within wf inside stored
  · rw [State.jump_pc, BitVec.toNat_ofNat]
    omega

theorem transact_loadRom_of_ok (fresh : s.isFresh = true) (h : s.loadRom bytes addr = .ok t) :
    transact s (.loadRom bytes addr) = .ok (t, .ok) := by
  simp [transact, fresh, h]

theorem transact_loadRom_of_error {k : Fault} (fresh : s.isFresh = true) (h : s.loadRom bytes addr = .error k) :
    transact s (.loadRom bytes addr) = .ok (s, .error k) := by
  simp [transact, fresh, h]

end Load

/-- Settles O56: a fresh machine has a canonical memory, so the image is read back; each failed test answers the
error. -/
theorem loadRomRule : Obligations.LoadRomRule := by
  refine ⟨fun s bytes addr fresh => ⟨fun low high fits => ?_, fun unfit => ?_⟩, fun s bytes addr stale => ?_⟩
  · have loaded := State.loadRom_eq_ok (s := s).2 ⟨low, high, fits, rfl⟩
    obtain ⟨image, outside, pc⟩ := loadRom_memory_pc (wf_of_isFresh fresh) loaded
    obtain ⟨regs, screen, rest⟩ := frame_of_memory_write (s := s)
      (t := (s.pokeBytes addr bytes).jump (BitVec.ofNat 16 addr)) rfl
    exact ⟨_, transact_loadRom_of_ok fresh loaded, image, outside, pc, regs, rfl, screen, rest⟩
  · exact transact_loadRom_of_error fresh (State.loadRom_of_unfit unfit)
  · simp [transact, stale]

/-- Settles O57: outside the image memory is as reset leaves it, and the image lies above the font. -/
theorem memoryAfterBoot : Obligations.MemoryAfterBoot := by
  intro cfg bytes addr s h
  obtain ⟨image, outside, pc⟩ := loadRom_memory_pc rfl h
  obtain ⟨low, -, -, rfl⟩ := State.loadRom_eq_ok.1 h
  refine ⟨fun k => ?_, image, fun a _ notFont notImage => ?_, pc, rfl, rfl⟩
  · exact (outside _ (by omega)).trans (resetByte_font cfg k)
  · exact (outside a notImage).trans (resetByte_outside_font cfg notFont)

/-! ### The host reads (R211, R212) -/

section HostReads

variable (s : State)

theorem State.length_framebufferSnapshot : s.framebufferSnapshot.length = 32 := by
  simp [State.framebufferSnapshot]

theorem State.length_of_mem_framebufferSnapshot {row : List Bool} (mem : row ∈ s.framebufferSnapshot) :
    row.length = 64 := by
  obtain ⟨r, -, rfl⟩ := List.mem_map.1 mem
  exact r.length_toList

theorem State.getElem?_framebufferSnapshot (r : Fin 32) (q : Fin 64) :
    s.framebufferSnapshot[r.val]?.bind (fun row => row[q.val]?) = some (s.fb.pixel r q) := by
  simp [State.framebufferSnapshot, Framebuffer.pixel]

theorem State.soundActive_iff : s.soundActive = true ↔ s.st ≠ 0#8 := by
  rw [State.soundActive, decide_eq_true_eq, gt_iff_lt, Nat.pos_iff_ne_zero, Ne, Ne, ← BitVec.toNat_inj]
  rfl

end HostReads

/-- Settles O59: the snapshot is the list of the rows of the grid, and the sound level is a test of ST. -/
theorem hostReadRules : Obligations.HostReadRules := fun s =>
  ⟨⟨s.framebufferSnapshot, rfl, s.length_framebufferSnapshot, fun _ => s.length_of_mem_framebufferSnapshot,
    s.getElem?_framebufferSnapshot⟩, ⟨s.soundActive, rfl, s.soundActive_iff⟩⟩

end Sys2Proof.Machine
